-- ==== Sys2Proof/Word.lean ====
section
/-! DEFINITION. The word types of the block: Address (16 bits), DataByte (8 bits), Budget (32 bits),
the per-instruction cycle count (3 bits) and the failure datum (17 bits). Address and DataByte are
distinct types (spec/00_scope.md R8), so an 8-bit value never stands where an address is wanted. -/

namespace Sys2Proof

/-- A 16-bit memory location, unsigned 0..65535 (R6, R8). -/
abbrev Address := BitVec 16

/-- An 8-bit datum: the content of a register or of a memory cell (R6, R8). -/
abbrev DataByte := BitVec 8

/-- The cycle budget, 32 bits unsigned (R6, R24). -/
abbrev Budget := BitVec 32

/-- The per-instruction cycle count, 3 bits unsigned (R25). -/
abbrev CycleCount := BitVec 3

/-- The datum that accompanies a halt cause, 17 bits unsigned (R28). -/
abbrev FailureInfo := BitVec 17

end Sys2Proof
end

