-- ==== Sys2Proof/Syntax.lean ====
section
/-! DEFINITION. The instructions: one constructor per row of spec/opcode_table.json. A decoded
instruction is "symbolic kind + addressing mode + base cycle cost" (spec/30_encoding.md R64): it
carries no operand, because the handler fetches its operand bytes itself
(spec/40_engine_fetch_dispatch.md R89). -/

namespace Sys2Proof

/-- The decoded instructions of R63 and R64. -/
inductive Instr where
  /-- LDA Immediate, opcode 0xA9 (R100). -/
  | ldaImm
  /-- LDA Zero Page, opcode 0xA5 (R101). -/
  | ldaZp
  /-- LDA Zero Page,X, opcode 0xB5 (R102). -/
  | ldaZpx
  /-- JSR Absolute, opcode 0x20 (R110). -/
  | jsrAbs
  /-- Unimplemented(byte): every other opcode byte, carried with it (R64, R120). -/
  | unimplemented (byte : DataByte)
  deriving DecidableEq, Repr

end Sys2Proof
end

