-- ==== Sys2Proof/WellFormed.lean ====
section
/-! DEFINITION. Which instruction values the spec has: the four rows of spec/30_encoding.md R63, and
Unimplemented(byte) for the 252 bytes outside the known set. -/

namespace Sys2Proof

/-- The four opcode bytes the table maps to an instruction (R63). -/
def knownOpcodes : List DataByte := [0xA9, 0xA5, 0xB5, 0x20]

/-- An instruction value that exists (R64): `unimplemented b` is one only for a byte `b` outside the
known set (R63, R65, R120). -/
def Instr.wf : Instr → Bool
  | .ldaImm => true
  | .ldaZp => true
  | .ldaZpx => true
  | .jsrAbs => true
  | .unimplemented b => !(knownOpcodes.contains b)

end Sys2Proof
end

