-- ==== Sys2Proof/Decode.lean ====
section
/-! DEFINITION. Decode and encode (spec/30_encoding.md). `decode` is the spec's total function from the
256 opcode bytes (R63), one lookup in a table of rows keyed by the whole byte (R68); `encode` is its
inverse (R67). Around them stands the byte-level form of a whole instruction with its operand bytes
(R60 to R62): `assemble` writes the bytes, `disassemble` reads them back and rejects by name. -/

namespace Sys2Proof

/-! ## Bit helpers: slices, zero extension and concatenation (spec/00_scope.md section 7) -/

/-- `{hi, lo}`, that is `(zext_16(hi) << 8) | zext_16(lo)` (R62 (d)). -/
def concatBytes (hi lo : DataByte) : Address := (hi.setWidth 16 <<< 8) ||| lo.setWidth 16

/-- Bits 15:8 of an Address. -/
def highByte (a : Address) : DataByte := a.extractLsb' 8 8

/-- Bits 7:0 of an Address. -/
def lowByte (a : Address) : DataByte := a.extractLsb' 0 8

/-! ## The parts of an instruction value -/

/-- The symbolic kinds (R64). -/
inductive Kind where
  | lda
  | jsr
  | unimplemented
  deriving DecidableEq, Repr

/-- The addressing modes (R64). -/
inductive Mode where
  | immediate
  | zeroPage
  | zeroPageX
  | absolute
  deriving DecidableEq, Repr

/-- One row of the decode table (R63, R68): the opcode byte, the instruction, its kind, its addressing
mode, its length in bytes and its base cycle cost. -/
structure TableRow where
  opcode : DataByte
  instr : Instr
  kind : Kind
  mode : Mode
  length : Nat
  cycles : Nat
  deriving DecidableEq, Repr

/-- The decode table of R63, its four known rows; all 8 bits of the opcode byte are matched (mask 0xFF). -/
def decodeTable : List TableRow :=
  [ { opcode := 0xA9, instr := .ldaImm, kind := .lda, mode := .immediate, length := 2, cycles := 2 },
    { opcode := 0xA5, instr := .ldaZp, kind := .lda, mode := .zeroPage, length := 2, cycles := 3 },
    { opcode := 0xB5, instr := .ldaZpx, kind := .lda, mode := .zeroPageX, length := 2, cycles := 4 },
    { opcode := 0x20, instr := .jsrAbs, kind := .jsr, mode := .absolute, length := 3, cycles := 6 } ]

/-- `Decode(byte)` (R63): total; a byte that no row matches is `Unimplemented(byte)`, never a default
no-operation. -/
def decode (b : DataByte) : Instr :=
  match decodeTable.find? (fun r => r.opcode == b) with
  | some r => r.instr
  | none => .unimplemented b

/-- `Encode` (R67): the opcode byte of an instruction value. -/
def encode : Instr → DataByte
  | .ldaImm => 0xA9
  | .ldaZp => 0xA5
  | .ldaZpx => 0xB5
  | .jsrAbs => 0x20
  | .unimplemented b => b

/-- The table row of an instruction value, if it has one. -/
def Instr.row? (i : Instr) : Option TableRow := decodeTable.find? (fun r => r.instr == i)

/-- The symbolic kind (R64). -/
def Instr.kind (i : Instr) : Kind := (i.row?.map TableRow.kind).getD .unimplemented

/-- The addressing mode; `unimplemented` has none (R64). -/
def Instr.mode? (i : Instr) : Option Mode := i.row?.map TableRow.mode

/-- The length in bytes, decided by the opcode byte alone (R66); only the opcode byte of an unimplemented
instruction is consumed. -/
def Instr.length (i : Instr) : Nat := (i.row?.map TableRow.length).getD 1

/-- The base cycle cost, the table's cycles column; `unimplemented` has none, its cost being "unknowable
without a handler" (R64). -/
def Instr.baseCycles? (i : Instr) : Option Nat := i.row?.map TableRow.cycles

/-! ## Whole instructions: the opcode byte with its operand bytes (R60 to R62) -/

/-- The operand of an instruction as its bytes give it (R61). -/
inductive Operand where
  /-- No operand byte (format UNIMPL). -/
  | none
  /-- `imm8` or `zp8` (formats IMM, ZP, ZPX). -/
  | byte (b : DataByte)
  /-- The target address `{hi8, lo8}` (format ABS). -/
  | target (a : Address)
  deriving DecidableEq, Repr

/-- The operand has the shape of the instruction's format (R61). -/
def Operand.fits : Operand → Instr → Bool
  | .byte _, .ldaImm => true
  | .byte _, .ldaZp => true
  | .byte _, .ldaZpx => true
  | .target _, .jsrAbs => true
  | .none, .unimplemented _ => true
  | _, _ => false

/-- The operand's bytes at ascending addresses; the low byte of a target address first (R44 (a), R61). -/
def Operand.bytes : Operand → List DataByte
  | .none => []
  | .byte b => [b]
  | .target a => [lowByte a, highByte a]

/-- The bytes of a whole instruction, at ascending addresses (R60, R61). -/
def assemble (i : Instr) (o : Operand) : List DataByte := encode i :: o.bytes

/-- Why a list of bytes is no whole instruction. -/
inductive DecodeError where
  /-- There is no opcode byte. -/
  | noOpcode
  /-- The opcode byte is there and an operand byte of its format is not. -/
  | operandMissing (i : Instr)
  deriving DecidableEq, Repr

/-- What reading one whole instruction from a byte list gives: the instruction with its operand and the
bytes that follow, or a rejection by name. -/
inductive DecodeResult where
  | accepted (i : Instr) (o : Operand) (rest : List DataByte)
  | rejected (e : DecodeError)
  deriving DecidableEq, Repr

/-- Read one operand byte of `i` (formats IMM, ZP, ZPX). -/
def takeByteOperand (i : Instr) : List DataByte → DecodeResult
  | b :: rest => .accepted i (.byte b) rest
  | [] => .rejected (.operandMissing i)

/-- Read the two operand bytes of `i`, low byte first (format ABS). -/
def takeTargetOperand (i : Instr) : List DataByte → DecodeResult
  | lo :: hi :: rest => .accepted i (.target (concatBytes hi lo)) rest
  | _ => .rejected (.operandMissing i)

/-- Read one whole instruction from the front of a byte list and give it with its operand and the bytes
that follow (R60 to R63). Total; it rejects, by name, only a list that ends too early. -/
def disassemble : List DataByte → DecodeResult
  | [] => .rejected .noOpcode
  | b :: rest =>
    match decode b with
    | .ldaImm => takeByteOperand .ldaImm rest
    | .ldaZp => takeByteOperand .ldaZp rest
    | .ldaZpx => takeByteOperand .ldaZpx rest
    | .jsrAbs => takeTargetOperand .jsrAbs rest
    | .unimplemented u => .accepted (.unimplemented u) .none rest

/-! ## Words as spec/opcode_table.json numbers them -/

/-- The bytes, at ascending addresses, of the instruction word `w` of `nbits` bits, whose bit 0 is the
least significant bit of the first byte. Three bytes, the longest instruction (R60); the bits above
`nbits` are 0. -/
def wordBytes (nbits w : Nat) : List DataByte :=
  let v := w % 2 ^ nbits
  [BitVec.ofNat 8 v, BitVec.ofNat 8 (v / 2 ^ 8), BitVec.ofNat 8 (v / 2 ^ 16)]

/-- The instruction the decoder reads from an instruction word. -/
def decodeTableWord (nbits w : Nat) : Option Instr :=
  match disassemble (wordBytes nbits w) with
  | .accepted i _ _ => some i
  | .rejected _ => none

end Sys2Proof
end

