-- ==== Sys2Proof/Config.lean ====
section
/-! DEFINITION. What is fixed when the block is constructed: the seven status flags as a value, and the
parameters of spec/00_scope.md R6 that construction samples (spec/10_state.md R29). The values the
spec leaves OPEN are fields of `Config`, so every operation that uses them takes them as an argument. -/

namespace Sys2Proof

/-- The status register P as seven independent Booleans, in the spec's order (R17). The packed byte is a
view only (`Machine.packStatus`, R22). -/
structure Status where
  /-- `P.C`, Carry. -/
  c : Bool
  /-- `P.Z`, Zero. -/
  z : Bool
  /-- `P.I`, IRQ-Disable. -/
  i : Bool
  /-- `P.D`, Decimal. -/
  d : Bool
  /-- `P.B`, Break. -/
  b : Bool
  /-- `P.V`, Overflow. -/
  v : Bool
  /-- `P.N`, Negative. -/
  n : Bool
  deriving DecidableEq, Repr

/-- The construction parameters (R6, R29): read once, when the block is constructed, and no state of it.
`resetAddress`, `initA`, `initX`, `initY` and `initP` are OPEN in the spec (D4, D6); `initialSp` has
the default 0xFF (D5). -/
structure Config where
  /-- `RESET_ADDRESS`. -/
  resetAddress : Address
  /-- `INITIAL_SP`. -/
  initialSp : DataByte
  /-- `INIT_A`. -/
  initA : DataByte
  /-- `INIT_X`. -/
  initX : DataByte
  /-- `INIT_Y`. -/
  initY : DataByte
  /-- `INIT_P`. -/
  initP : Status
  deriving DecidableEq, Repr

/-- All seven flags clear: the spec's suggested instantiation of `INIT_P` (R6). -/
def Status.clear : Status :=
  { c := false, z := false, i := false, d := false, b := false, v := false, n := false }

/-- The parameter values `State.reset` uses. DESIGN CHOICE, unsafe: the reset address 0x0000
(notes/assumptions/1.md), A, X and Y 0x00 (2.md) and the flags clear (3.md) are the model's values for
OPEN parameters; the stack pointer 0xFF is the spec's default (R6, D5; 4.md). -/
def Config.suggested : Config :=
  { resetAddress := 0x0000, initialSp := 0xFF, initA := 0x00, initX := 0x00, initY := 0x00,
    initP := Status.clear }

end Sys2Proof
end

