-- ==== Sys2Proof/Machine/State.lean ====
section
/-! DEFINITION. The state of the block as plain data (spec/10_state.md): the register file, the flags,
the engine's registers, the memory it is attached to, and two fields that are the model's own and not
the spec's: `bus`, the transactions seen at the memory port (R168), and `hostMoves`, what the host has
still to do (R33, R169). -/

namespace Sys2Proof.Machine

/-- The engine's run state `RUN`, two logical states (R26, R146). -/
inductive RunState where
  | running
  | halted
  deriving DecidableEq, Repr

/-- `CAUSE`: why the engine last halted (R27, R130). Its numbers are `Cause.code`. -/
inductive Cause where
  /-- 0: reset state, or a run in progress. -/
  | none
  /-- 1: the normal end of a run (R135). -/
  | budgetExhausted
  /-- 2: PC would leave the address space (R131). -/
  | outOfBoundsAddress
  /-- 3: SP would be decremented below 0 (R132). -/
  | stackOverflow
  /-- 4: defined, raised by nothing in scope (R133). -/
  | stackUnderflow
  /-- 5: the opcode byte has no handler (R134). -/
  | unimplementedOpcode
  deriving DecidableEq, Repr

/-- The failure conditions with the data they carry, what a micro-operation raises (R130, R136). -/
inductive Failure where
  /-- `OutOfBoundsAddress(addr)` (R131). -/
  | outOfBoundsAddress (addr : FailureInfo)
  /-- `StackOverflow` (R132). -/
  | stackOverflow
  /-- `StackUnderflow`: the constructor the spec asks for; no operation raises it (R133). -/
  | stackUnderflow
  /-- `UnimplementedOpcode(byte)` (R134). -/
  | unimplementedOpcode (byte : DataByte)
  deriving DecidableEq, Repr

/-- The seven status flags by name (R17). -/
inductive Flag where
  | c
  | z
  | i
  | d
  | b
  | v
  | n
  deriving DecidableEq, Repr

/-- One transaction at the memory port: a read with the byte it returned, or a write (R42, R57, R168). -/
inductive BusOp where
  | read (addr : Address) (v : DataByte)
  | write (addr : Address) (v : DataByte)
  deriving DecidableEq, Repr

/-- One act of the host, each possible only while the engine is Halted (R33, R41, R55, R80, R160, R169). -/
inductive HostMove where
  /-- Construct the block, `CPU::new(config)`: the block's reset (R160). -/
  | construct (cfg : Config)
  /-- `Memory::initialise()`: zero-fill the memory (R41, R162). -/
  | initMemory
  /-- Write one memory cell, as a loader does (R55, R163). -/
  | writeMem (addr : Address) (v : DataByte)
  /-- Write PC (R33). -/
  | writePc (v : Address)
  /-- Write SP (R33). -/
  | writeSp (v : DataByte)
  /-- Write A (R33). -/
  | writeA (v : DataByte)
  /-- Write X (R33). -/
  | writeX (v : DataByte)
  /-- Write Y (R33). -/
  | writeY (v : DataByte)
  /-- Write one flag (R33). -/
  | writeFlag (f : Flag) (v : Bool)
  /-- Write the packed view of P (R22). -/
  | writeStatus (v : DataByte)
  /-- Start a run with a budget: `Execute(budget)` (R80, R138). -/
  | start (budget : Budget)
  deriving DecidableEq, Repr

/-- What the host may read while the engine is Halted (R33). -/
inductive HostReg where
  | pc
  | sp
  | a
  | x
  | y
  | flag (f : Flag)
  /-- The packed view of P (R22). -/
  | status
  | mem (addr : Address)
  | budget
  | icyc
  | cause
  | info
  deriving DecidableEq, Repr

/-- The memory `M` (R30, R40) as a list of (address, byte) pairs in one canonical form, `Memory.wf`: the
addresses strictly rise, lie below 65536, and no entry holds the byte an unlisted address reads as. -/
abbrev Memory := List Host.Cell

/-- Everything the spec gives the machine (R10, R17, R24 to R28, R30), and the model's own `bus` and
`hostMoves`. -/
structure State where
  /-- Program counter (R11). -/
  pc : Address
  /-- Stack pointer, an offset into page 0x0100 (R12). -/
  sp : DataByte
  /-- Accumulator (R13). -/
  a : DataByte
  /-- Index register X (R14). -/
  x : DataByte
  /-- Register Y, which no instruction in scope uses (R15). -/
  y : DataByte
  /-- Status register, seven flags (R17). -/
  p : Status
  /-- `BUDGET`: the cycles that remain of the current run (R24). -/
  budget : Budget
  /-- `ICYC`: the cycles the current or last step has charged (R25). -/
  icyc : CycleCount
  /-- `RUN` (R26). -/
  run : RunState
  /-- `CAUSE` (R27). -/
  cause : Cause
  /-- `INFO`: the datum of CAUSE (R28). -/
  info : FailureInfo
  /-- The memory `M` (R30). -/
  mem : Memory
  /-- The model's own: the memory-port transactions of the current or last step, oldest first (R168;
  notes/assumptions/9.md). -/
  bus : List BusOp
  /-- The model's own: the acts of the host still to come, the next one first (R169;
  notes/assumptions/8.md). -/
  hostMoves : List HostMove
  deriving DecidableEq, Repr

/-- Why the machine itself could stop without a next state. The block has no such event: every failure
condition of the spec halts the engine in a state the spec gives (R130, R136), so the type has no
constructor, nobody raises one, and that is safe. -/
inductive Fault where
  deriving DecidableEq, Repr

/-- Why an instruction could have no meaning. -/
inductive Refusal where
  /-- Raised only by an arm of `exec` that has no meaning yet; no arm is left so. Safe: the machine stops. -/
  | notModelled (mnemonic : String)
  deriving DecidableEq, Repr

/-- The block as construction with `cfg` leaves it beside the memory `m` (R32, R160): Halted, cause None,
no budget, no cycle counted. -/
def State.ofConfig (cfg : Config) (m : Memory) : State :=
  { pc := cfg.resetAddress, sp := cfg.initialSp, a := cfg.initA, x := cfg.initX, y := cfg.initY,
    p := cfg.initP, budget := 0, icyc := 0, run := .halted, cause := .none, info := 0, mem := m,
    bus := [], hostMoves := [] }

/-- The machine right after reset: the block constructed with the parameters of `Config.suggested`, beside
a memory just initialised (nothing listed: every cell reads 0x00), with no act of the host pending. -/
def State.reset : State := State.ofConfig Config.suggested []

/-- What a micro-operation that can fail answers: it completed with a value, or it raised a failure and
the step ends there, in the state the failure leaves (R136). -/
inductive Micro (α : Type) where
  | ok (v : α) (s : State)
  | raised (s : State)
  deriving DecidableEq, Repr

end Sys2Proof.Machine
end

