-- ==== Sys2Proof/Machine/Ops.lean ====
section
/-! DEFINITION. The shared operations: memory (spec/20_memory.md), the failure entry and the return from
it (spec/60_exceptions.md R136, R138), cycle charging, and the engine's micro-operations
(spec/40_engine_fetch_dispatch.md R82 to R87). -/

namespace Sys2Proof.Machine

/-! ## Memory -/

/-- What an address with no entry reads as: memory is zero-filled (R41). -/
def unlistedByte : DataByte := 0x00

/-- The canonical form: addresses strictly rising and inside the address space, no entry equal to what an
unlisted address reads as. -/
abbrev Memory.wf (m : Memory) : Prop :=
  m.Pairwise (fun c d => c.1 < d.1) ∧ ∀ c ∈ m, c.1 < 65536 ∧ c.2 ≠ unlistedByte

/-- `MemRead(addr, 1)` (R42): the content of one cell. It cannot fail on an Address (R43). -/
def Memory.read (m : Memory) (addr : Address) : DataByte :=
  match m.find? (fun c => c.1 == addr.toNat) with
  | some c => c.2
  | none => unlistedByte

/-- Put an entry where its address belongs in a list whose addresses rise. -/
def Memory.insert (k : Nat) (v : DataByte) : Memory → Memory
  | [] => [(k, v)]
  | c :: rest => if k < c.1 then (k, v) :: c :: rest else c :: Memory.insert k v rest

/-- `MemWrite(addr, 1, v)` (R42): the cell at `addr` becomes `v`, no other cell changes. -/
def Memory.write (m : Memory) (addr : Address) (v : DataByte) : Memory :=
  let others := m.filter (fun c => c.1 != addr.toNat)
  if v = unlistedByte then others else Memory.insert addr.toNat v others

/-- Store bytes at ascending addresses from `k`; a byte past 0xFFFF has no cell and is dropped. -/
def Memory.writeBytes (m : Memory) (k : Nat) : List DataByte → Memory
  | [] => m
  | v :: rest =>
    (if k < 65536 then m.write (BitVec.ofNat 16 k) v else m).writeBytes (k + 1) rest

/-! ## The one way to write each register -/

/-- `PC <- v`. -/
def State.setPc (v : Address) (s : State) : State := { s with pc := v }

/-- `SP <- v`. -/
def State.setSp (v : DataByte) (s : State) : State := { s with sp := v }

/-- `A <- v`. -/
def State.setA (v : DataByte) (s : State) : State := { s with a := v }

/-- `X <- v`; only the host does this (R14). -/
def State.setX (v : DataByte) (s : State) : State := { s with x := v }

/-- `Y <- v`; only the host does this (R15). -/
def State.setY (v : DataByte) (s : State) : State := { s with y := v }

/-- Write the whole of P. -/
def State.setP (v : Status) (s : State) : State := { s with p := v }

/-- Replace the memory. -/
def State.setMem (m : Memory) (s : State) : State := { s with mem := m }

/-- Record one transaction at the memory port (R168). -/
def State.logBus (op : BusOp) (s : State) : State := { s with bus := s.bus ++ [op] }

/-! ## Failures: the block's trap entry, and the return from it -/

/-- The CAUSE a failure condition records (R130). -/
def Failure.cause : Failure → Cause
  | .outOfBoundsAddress _ => .outOfBoundsAddress
  | .stackOverflow => .stackOverflow
  | .stackUnderflow => .stackUnderflow
  | .unimplementedOpcode _ => .unimplementedOpcode

/-- The INFO a failure condition records: the address, the opcode byte zero-extended, or 0 (R28, R130). -/
def Failure.info : Failure → FailureInfo
  | .outOfBoundsAddress addr => addr
  | .stackOverflow => 0
  | .stackUnderflow => 0
  | .unimplementedOpcode byte => byte.setWidth 17

/-- The number of a cause in the 3-bit CAUSE register (R27, R130; D12). -/
def Cause.code : Cause → BitVec 3
  | .none => 0
  | .budgetExhausted => 1
  | .outOfBoundsAddress => 2
  | .stackOverflow => 3
  | .stackUnderflow => 4
  | .unimplementedOpcode => 5

/-- Taking a failure, the block's trap entry (R136): the engine halts with the cause and its datum. Nothing
else happens: no register is saved or changed, PC is not redirected, nothing is rolled back. -/
def takeFailure (f : Failure) (s : State) : State :=
  { s with run := .halted, cause := f.cause, info := f.info }

/-- Starting a run, the first four lines of `Execute(b)` (R80), and the block's trap return (R138): nothing
but BUDGET, CAUSE, INFO and RUN is written. -/
def beginRun (b : Budget) (s : State) : State :=
  { s with budget := b, cause := .none, info := 0, run := .running }

/-- The end of a run whose budget is spent, the last two lines of `Execute` (R80, R135). -/
def exhausted (s : State) : State :=
  { s with run := .halted, cause := .budgetExhausted }

/-- The loop test of `Execute`, where BUDGET is read between steps (R80, R92, R146). A failure has left
`RUN` Halted before it is reached, so the failure's cause stands (R137). -/
def loopTest (s : State) : State :=
  if s.run = .running ∧ s.budget = 0 then exhausted s else s

/-! ## Sequencing: a raise ends the step -/

/-- Go on with the next micro-operation unless a failure was raised (R136 (1)). -/
def Micro.bind {α β : Type} (r : Micro α) (f : α → State → Micro β) : Micro β :=
  match r with
  | .ok v s => f v s
  | .raised s => .raised s

/-- `raise <Condition>` (R136). -/
def raise {α : Type} (f : Failure) (s : State) : Micro α := .raised (takeFailure f s)

/-- The end of a handler: completed or failed, the machine has a next state (R136). -/
def Micro.finish (r : Micro Unit) : Host.Outcome State Fault Refusal :=
  match r with
  | .ok _ s => .next s
  | .raised s => .next s

/-! ## Cycle charging -/

/-- `Charge(n)` (R82): ICYC counts the cycles whether or not the budget can pay; BUDGET saturates at 0. -/
def charge (n : Nat) (s : State) : State :=
  { s with
    icyc := s.icyc + BitVec.ofNat 3 n
    budget := if n ≤ s.budget.toNat then s.budget - BitVec.ofNat 32 n else 0 }

/-! ## Fetch and memory micro-operations -/

/-- The clearing of ICYC with which `Step` begins (R81); the model's record of port transactions starts
afresh with it. -/
def beginStep (s : State) : State := { s with icyc := 0, bus := [] }

/-- A read at the memory port: the byte, and the state in which the port has shown it (R42). -/
def portRead (addr : Address) (s : State) : DataByte × State :=
  let v := s.mem.read addr
  (v, s.logBus (.read addr v))

/-- The increment of PC, which must not leave the address space (R11, R83): none at 0xFFFF. -/
def nextAddress (pc : Address) : Option Address := if pc = 0xFFFF then none else some (pc + 1)

/-- `Fetch8()` (R83): read at PC, advance PC, charge 1. At 0xFFFF the advance fails with the address
0x10000; the read has been made, PC keeps its value and nothing is charged. -/
def fetch8 (s : State) : Micro DataByte :=
  let r := portRead s.pc s
  match nextAddress s.pc with
  | none => raise (.outOfBoundsAddress (s.pc.setWidth 17 + 1)) r.2
  | some pc' => .ok r.1 (charge 1 (r.2.setPc pc'))

/-- `Read8(addr)` (R85): a data read charged 1 cycle. -/
def read8 (addr : Address) (s : State) : DataByte × State :=
  let r := portRead addr s
  (r.1, charge 1 r.2)

/-- `Write8(addr, v)` (R86): a data write charged 1 cycle. -/
def write8 (addr : Address) (v : DataByte) (s : State) : State :=
  charge 1 ((s.setMem (s.mem.write addr v)).logBus (.write addr v))

/-- `{0x01, SP}`: the address of the stack cell that an SP designates (R12). -/
def stackAddress (sp : DataByte) : Address := concatBytes 0x01 sp

/-- `Push8(v)` (R87): write, then the guarded decrement of SP; at SP = 0x00 the byte is written and charged
and StackOverflow is raised with SP unchanged. -/
def push8 (v : DataByte) (s : State) : Micro Unit :=
  let s1 := write8 (stackAddress s.sp) v s
  if s1.sp = 0x00 then raise .stackOverflow s1 else .ok () (s1.setSp (s1.sp - 1))

/-- The opcode fetch of `Step` (R81): clear ICYC, then `Fetch8`. -/
def fetchOpcode (s : State) : Micro DataByte := fetch8 (beginStep s)

end Sys2Proof.Machine
end

