-- ==== Sys2Proof/Machine/Operands.lean ====
section
/-! DEFINITION. How the handlers obtain their operands (spec/30_encoding.md R62): the effective addresses
of the two zero-page forms and the two-byte address fetch. The immediate operand is the byte that
`fetch8` returns, as it stands. -/

namespace Sys2Proof.Machine

/-- Zero Page: `zext_16(zp8)`, that is `{0x00, zp8}` (R62 (b)). -/
def zeroPageAddress (zp : DataByte) : Address := zp.setWidth 16

/-- Zero Page,X: `zext_16((zp8 + X) mod 2^8)`, the carry of the 8-bit sum discarded (R62 (c)). -/
def zeroPageXAddress (zp x : DataByte) : Address := zeroPageAddress (zp + x)

/-- `FetchAddr()` (R84): two fetches, low byte first, then the charge of assembling them into one address. -/
def fetchAddr (s : State) : Micro Address :=
  (fetch8 s).bind fun lo s =>
  (fetch8 s).bind fun hi s =>
  .ok (concatBytes hi lo) (charge 1 s)

end Sys2Proof.Machine
end

