-- ==== Sys2Proof/Machine/Jsr.lean ====
section
/-! DEFINITION. The JSR handler (spec/42_jsr.md), entered with PC past the opcode byte and the opcode
fetch charged. -/

namespace Sys2Proof.Machine

/-- JSR Absolute (R110): fetch the target, push the address of the instruction's last byte (PC after the
operand fetch, minus 1; R111, C1), high byte first (D10, C3), then jump. -/
def execJsrAbs (s : State) : Host.Outcome State Fault Refusal :=
  ((fetchAddr s).bind fun t s =>
    let ret := s.pc - 1
    (push8 (highByte ret) s).bind fun _ s =>
    (push8 (lowByte ret) s).bind fun _ s =>
    .ok () (s.setPc t)).finish

end Sys2Proof.Machine
end

