-- ==== Sys2Proof/Machine/Flags.lean ====
section
/-! DEFINITION. The status flags: the recompute of Zero and Negative
(spec/40_engine_fetch_dispatch.md R88), the flags by name, and the packed byte view (spec/10_state.md R22). -/

namespace Sys2Proof.Machine

/-- `SetZN(v)` (R88): Z and N are assigned from `v` alone, never OR-ed into the old values (R23); the other
five flags are untouched and no cycle is charged. -/
def setZN (v : DataByte) (s : State) : State :=
  s.setP { s.p with z := v == 0x00, n := v.getLsbD 7 }

/-- Read one flag. -/
def flagOf (f : Flag) (p : Status) : Bool :=
  match f with
  | .c => p.c
  | .z => p.z
  | .i => p.i
  | .d => p.d
  | .b => p.b
  | .v => p.v
  | .n => p.n

/-- Assign one flag and leave the other six (R23). -/
def withFlag (f : Flag) (v : Bool) (p : Status) : Status :=
  match f with
  | .c => { p with c := v }
  | .z => { p with z := v }
  | .i => { p with i := v }
  | .d => { p with d := v }
  | .b => { p with b := v }
  | .v => { p with v := v }
  | .n => { p with n := v }

/-- The packed byte view of P (R22, D7): N V - B D I Z C from bit 7 down, bit 5 reading 0. PRESUMED, unsafe:
the positions are the 6502 family's (notes/assumptions/5.md). -/
def packStatus (p : Status) : DataByte :=
  BitVec.ofBool p.n ++ BitVec.ofBool p.v ++ 0#1 ++ BitVec.ofBool p.b ++ BitVec.ofBool p.d ++
    BitVec.ofBool p.i ++ BitVec.ofBool p.z ++ BitVec.ofBool p.c

/-- A write of the packed view: bit 5 is ignored (R22, D7). -/
def unpackStatus (v : DataByte) : Status :=
  { c := v.getLsbD 0, z := v.getLsbD 1, i := v.getLsbD 2, d := v.getLsbD 3, b := v.getLsbD 4,
    v := v.getLsbD 6, n := v.getLsbD 7 }

end Sys2Proof.Machine
end

