-- ==== Sys2Proof/Machine/Lda.lean ====
section
/-! DEFINITION. The three LDA handlers (spec/41_lda.md), entered with PC past the opcode byte and the
opcode fetch charged. -/

namespace Sys2Proof.Machine

/-- The end every LDA shares, after its reads and charges (R103): `A <- v`, then `SetZN(A)`. -/
def loadA (v : DataByte) (s : State) : State := setZN v (s.setA v)

/-- LDA Immediate (R100). -/
def execLdaImm (s : State) : Host.Outcome State Fault Refusal :=
  ((fetch8 s).bind fun v s =>
    .ok () (loadA v s)).finish

/-- LDA Zero Page (R101). -/
def execLdaZp (s : State) : Host.Outcome State Fault Refusal :=
  ((fetch8 s).bind fun zp s =>
    let r := read8 (zeroPageAddress zp) s
    .ok () (loadA r.1 r.2)).finish

/-- LDA Zero Page,X (R102): the index computation is charged one cycle, before the data read. -/
def execLdaZpx (s : State) : Host.Outcome State Fault Refusal :=
  ((fetch8 s).bind fun zp s =>
    let ea := zeroPageXAddress zp s.x
    let r := read8 ea (charge 1 s)
    .ok () (loadA r.1 r.2)).finish

end Sys2Proof.Machine
end

