-- ==== Sys2Proof/Machine/Unimplemented.lean ====
section
/-! DEFINITION. The handler of every opcode byte outside the table (spec/43_unimplemented.md), entered with
PC past the byte and its fetch charged. -/

namespace Sys2Proof.Machine

/-- Unimplemented(byte) (R120): raise `UnimplementedOpcode(byte)`. The byte is no no-operation and consumes no
operand (R122). -/
def execUnimplemented (byte : DataByte) (s : State) : Host.Outcome State Fault Refusal :=
  Micro.finish (raise (.unimplementedOpcode byte) s)

end Sys2Proof.Machine
end

