-- ==== Sys2Proof/Machine/Dispatch.lean ====
section
/-! DEFINITION. `Dispatch(ins)` (spec/40_engine_fetch_dispatch.md R89): one arm per instruction value. -/

namespace Sys2Proof.Machine

def exec (i : Instr) (s : State) : Host.Outcome State Fault Refusal :=
  match i with
  | .ldaImm => Sys2Proof.Machine.execLdaImm s
  | .ldaZp => Sys2Proof.Machine.execLdaZp s
  | .ldaZpx => Sys2Proof.Machine.execLdaZpx s
  | .jsrAbs => Sys2Proof.Machine.execJsrAbs s
  | .unimplemented byte => Sys2Proof.Machine.execUnimplemented byte s

end Sys2Proof.Machine
end

