-- ==== Sys2Proof/Machine/Engine.lean ====
section
/-! DEFINITION. The engine (spec/40_engine_fetch_dispatch.md): one step, and the run loop `Execute` as the
spec writes it, a loop over whole steps under the budget. -/

namespace Sys2Proof.Machine

/-- `Step()` (R81): fetch the opcode, decode it, dispatch. A failing opcode fetch ends the step before the
byte is decoded (R137). -/
def engineStep (s : State) : Host.Outcome State Fault Refusal :=
  match fetchOpcode s with
  | .raised s' => .next s'
  | .ok op s' => exec (decode op) s'

/-- The loop test after a step (R80, R146), on the step's outcome. -/
def thenLoopTest (o : Host.Outcome State Fault Refusal) : Host.Outcome State Fault Refusal :=
  match o with
  | .next s => .next (loopTest s)
  | .fault r => .fault r
  | .refused r => .refused r

/-- The loop of `Execute` (R80). A step that raised has left the engine Halted and ends the loop; every other
step charges at least one cycle, so as many rounds as the budget has cycles are enough (R146). -/
def executeLoop : Nat → State → Host.Outcome State Fault Refusal
  | 0, s => .next (exhausted s)
  | k + 1, s =>
    if s.budget = 0 then .next (exhausted s)
    else
      match engineStep s with
      | .next s' => if s'.run = .halted then .next s' else executeLoop k s'
      | .fault r => .fault r
      | .refused r => .refused r

/-- `Execute(b)` (R80): what a run started by the host with budget `b` does, from its start to its end. -/
def execute (b : Budget) (s : State) : Host.Outcome State Fault Refusal :=
  executeLoop b.toNat (beginRun b s)

end Sys2Proof.Machine
end

