-- ==== Sys2Proof/Machine/HostSide.lean ====
section
/-! DEFINITION. The host's side of the block (spec/10_state.md R33, spec/70_reset_and_hazards.md R160 to
R169): construction, loading memory, writing and reading registers, starting a run. All of it is
possible only while the engine is Halted. -/

namespace Sys2Proof.Machine

/-- Construction of the block with `cfg`, its reset (R160): every register takes its reset value; memory is
not touched (R162), nor is what the host has still to do. -/
def constructBlock (cfg : Config) (s : State) : State :=
  { State.ofConfig cfg s.mem with hostMoves := s.hostMoves }

/-- `Memory::initialise()` (R41): every cell becomes 0x00. -/
def initialiseMemory (s : State) : State := s.setMem []

/-- `Execute(b)` up to its first loop test (R80, R146): Running if the budget is above 0, Halted with
BudgetExhausted otherwise (R93). -/
def startRun (b : Budget) (s : State) : State := loopTest (beginRun b s)

/-- The effect of one act of the host (R33, R169). -/
def hostAct (m : HostMove) (s : State) : State :=
  match m with
  | .construct cfg => constructBlock cfg s
  | .initMemory => initialiseMemory s
  | .writeMem addr v => s.setMem (s.mem.write addr v)
  | .writePc v => s.setPc v
  | .writeSp v => s.setSp v
  | .writeA v => s.setA v
  | .writeX v => s.setX v
  | .writeY v => s.setY v
  | .writeFlag f v => s.setP (withFlag f v s.p)
  | .writeStatus v => s.setP (unpackStatus v)
  | .start b => startRun b s

/-- The host's turn, while the engine is Halted: its next act, or, with none pending, nothing: everything
survives the Halted state (R145). -/
def hostTurn (s : State) : State :=
  match s.hostMoves with
  | [] => s
  | m :: rest => hostAct m { s with hostMoves := rest }

/-- What the host reads from a register or a cell, zero-extended to 32 bits; it reads nothing while the
engine is Running (R33). -/
def hostRead (r : HostReg) (s : State) : Option (BitVec 32) :=
  match s.run with
  | .running => none
  | .halted =>
    some <|
      match r with
      | .pc => s.pc.setWidth 32
      | .sp => s.sp.setWidth 32
      | .a => s.a.setWidth 32
      | .x => s.x.setWidth 32
      | .y => s.y.setWidth 32
      | .flag f => (BitVec.ofBool (flagOf f s.p)).setWidth 32
      | .status => (packStatus s.p).setWidth 32
      | .mem addr => (s.mem.read addr).setWidth 32
      | .budget => s.budget
      | .icyc => s.icyc.setWidth 32
      | .cause => s.cause.code.setWidth 32
      | .info => s.info.setWidth 32

/-- The run-control outputs of the block: `halted`, `cause[2:0]`, `info[16:0]`, `budget_out[31:0]`,
`icyc[2:0]` (R168). -/
def runControlOutputs (s : State) : Bool × BitVec 3 × FailureInfo × Budget × CycleCount :=
  (s.run == .halted, s.cause.code, s.info, s.budget, s.icyc)

/-- The acts by which a loader puts bytes at ascending addresses (R55, R163); bytes past 0xFFFF are dropped. -/
def loadMoves (base : Nat) : List DataByte → List HostMove
  | [] => []
  | v :: rest =>
    if base < 65536 then .writeMem (BitVec.ofNat 16 base) v :: loadMoves (base + 1) rest else []

/-- The budget `makeReady` supplies when the state has none: the largest. DESIGN CHOICE
(notes/assumptions/7.md). -/
def readyBudget : Budget := 0xFFFFFFFF

/-- The state from which the next step of the machine is a step of the engine: as it stands if a run is in
progress with budget left, else as the start of a run leaves it (R80). -/
def makeReady (s : State) : State :=
  if s.run = .running ∧ s.budget ≠ 0 then s
  else beginRun (if s.budget = 0 then readyBudget else s.budget) s

end Sys2Proof.Machine
end

