-- ==== Sys2Proof/Machine/Step.lean ====
section
/-! DEFINITION. One step of the whole machine (spec/60_exceptions.md R146): a step of the engine while it is
Running with budget left, followed by the loop test; otherwise the end of the run; the host's turn while it
is Halted (spec/00_scope.md R5). -/

namespace Sys2Proof.Machine

/-- One step. While Running the host has no move (R56, R169); at zero budget no step of the engine starts,
not even its opcode fetch (R92); while Halted the engine takes no step (R138, R145). -/
def step (s : State) : Host.Outcome State Fault Refusal :=
  match s.run with
  | .halted => .next (hostTurn s)
  | .running => if s.budget = 0 then .next (exhausted s) else thenLoopTest (engineStep s)

/-- `s` with the instruction word `w` of `nbits` bits stored at PC, and with a run in progress, so that the
next step fetches and runs it (notes/assumptions/7.md). -/
def State.withFetchWord (s : State) (nbits w : Nat) : State :=
  makeReady (s.setMem (s.mem.writeBytes s.pc.toNat (wordBytes nbits w)))

end Sys2Proof.Machine
end

