-- ==== Sys2Proof/Safety.lean ====
section
/-! DEFINITION. What counts as a safe state of the block, and the terms in which the statements speak of
runs: completed steps, the cycles they charge, and the replay of the memory port. -/

namespace Sys2Proof.Machine

/-! ## The invariant -/

/-- A run in progress has budget left and no halt cause recorded (spec/60_exceptions.md R146). -/
abbrev State.RunConsistent (s : State) : Prop :=
  s.run = .running → s.budget ≠ 0 ∧ s.cause = .none ∧ s.info = 0

/-- INFO is the datum of CAUSE (spec/10_state.md R28): the address 0x10000, a byte that decodes to
`unimplemented`, or 0. -/
abbrev State.InfoConsistent (s : State) : Prop :=
  (s.cause = .outOfBoundsAddress → s.info = 0x10000) ∧
  (s.cause = .unimplementedOpcode →
    s.info = (s.info.setWidth 8).setWidth 17 ∧
      decode (s.info.setWidth 8) = .unimplemented (s.info.setWidth 8)) ∧
  (s.cause = .none ∨ s.cause = .budgetExhausted ∨ s.cause = .stackOverflow → s.info = 0)

/-- BudgetExhausted is recorded only when BUDGET is 0 (spec/60_exceptions.md R135), and StackUnderflow is
recorded by nothing (R133). -/
abbrev State.CauseConsistent (s : State) : Prop :=
  (s.cause = .budgetExhausted → s.budget = 0) ∧ s.cause ≠ .stackUnderflow

/-- The invariant of the block: the memory is in its canonical form, ICYC is at most 6
(spec/10_state.md R25), and the run registers agree with one another. -/
abbrev State.Inv (s : State) : Prop :=
  s.mem.wf ∧ s.icyc ≤ 6 ∧ s.RunConsistent ∧ s.InfoConsistent ∧ s.CauseConsistent

/-! ## Budget, steps and runs -/

/-- `max(b - n, 0)`: the budget `b` after `n` cycles (spec/40_engine_fetch_dispatch.md R82). -/
def budgetAfter (b : Budget) (n : Nat) : Budget := BitVec.ofNat 32 (b.toNat - n)

/-- `k` steps of the engine, whatever the budget: if each of them completes, the state they end in and the
sum of the cycles they count; none if one of them raises (R94). -/
def completedSteps : Nat → State → Option (State × Nat)
  | 0, s => some (s, 0)
  | k + 1, s =>
    match engineStep s with
    | .next s' =>
      if s'.run = .running then
        (completedSteps k s').map fun r => (r.1, s'.icyc.toNat + r.2)
      else none
    | .fault _ => none
    | .refused _ => none

/-! ## The memory port -/

/-- The memory after the port transactions `ops`, if every read among them returned what the memory held at
that moment (spec/20_memory.md R50). -/
def replay (m : Memory) : List BusOp → Option Memory
  | [] => some m
  | .read addr v :: rest => if m.read addr = v then replay m rest else none
  | .write addr v :: rest => replay (m.write addr v) rest

/-- The number of reads among port transactions. -/
def readCount (ops : List BusOp) : Nat :=
  ops.countP fun op =>
    match op with
    | .read _ _ => true
    | .write _ _ => false

/-- The number of writes among port transactions. -/
def writeCount (ops : List BusOp) : Nat :=
  ops.countP fun op =>
    match op with
    | .read _ _ => false
    | .write _ _ => true

/-- The fetches of `n` bytes from `addr` on, as the port shows them when nothing is written between. -/
def fetches (m : Memory) (addr : Address) : Nat → List BusOp
  | 0 => []
  | n + 1 => .read addr (m.read addr) :: fetches m (addr + 1) n

end Sys2Proof.Machine
end

