-- ==== Sys2Proof/Certificates/Slice0/Obligations.lean ====
section
/-! DEFINITION. The statements for the provers, in the order of OBLIGATIONS.json. A statement that rests on
one of the spec's own decisions (D<n> of spec/92_eei_decisions.md) or on the model's assumption log
(notes/assumptions/<n>.md) says so. -/

open Sys2Proof Sys2Proof.Machine

/-! ## Decode and encode (spec/30_encoding.md) -/

/-- R63 and R64: the four rows of the decode table with their modes, lengths and cycles; every other byte is
`Unimplemented(byte)`, whose fetch alone is charged. The lengths are derived by the spec (R61, R66), and that the
charge shows in ICYC is its decision D14 (log entry 13). -/
def Obligations.DecodeTableIsTotal : Prop :=
  (decode 0xA9 = .ldaImm ∧ Instr.ldaImm.kind = .lda ∧ Instr.ldaImm.mode? = some .immediate ∧
    Instr.ldaImm.length = 2 ∧ Instr.ldaImm.baseCycles? = some 2) ∧
  (decode 0xA5 = .ldaZp ∧ Instr.ldaZp.kind = .lda ∧ Instr.ldaZp.mode? = some .zeroPage ∧
    Instr.ldaZp.length = 2 ∧ Instr.ldaZp.baseCycles? = some 3) ∧
  (decode 0xB5 = .ldaZpx ∧ Instr.ldaZpx.kind = .lda ∧ Instr.ldaZpx.mode? = some .zeroPageX ∧
    Instr.ldaZpx.length = 2 ∧ Instr.ldaZpx.baseCycles? = some 4) ∧
  (decode 0x20 = .jsrAbs ∧ Instr.jsrAbs.kind = .jsr ∧ Instr.jsrAbs.mode? = some .absolute ∧
    Instr.jsrAbs.length = 3 ∧ Instr.jsrAbs.baseCycles? = some 6) ∧
  (∀ b : DataByte, b ∉ knownOpcodes →
    decode b = .unimplemented b ∧ (decode b).kind = .unimplemented ∧ (decode b).mode? = none ∧
    (decode b).length = 1 ∧ (decode b).baseCycles? = none ∧
    ∀ s : State, s.mem.read s.pc = b → s.pc ≠ 0xFFFF →
      ∃ s', engineStep s = .next s' ∧ s'.icyc = 1)

/-- R67: the inverse mapping, both ways round. -/
def Obligations.EncodeInvertsDecode : Prop :=
  encode .ldaImm = 0xA9 ∧ encode .ldaZp = 0xA5 ∧ encode .ldaZpx = 0xB5 ∧ encode .jsrAbs = 0x20 ∧
  (∀ b, encode (.unimplemented b) = b) ∧
  (∀ i : Instr, i.wf = true → decode (encode i) = i) ∧
  (∀ b : DataByte, encode (decode b) = b ∧ (decode b).wf = true)

/-- Whole instructions with every operand at every value: the bytes `assemble` writes are read back as the
instruction, the operand and what follows, and every list of bytes that `disassemble` accepts is the
assembly of what it answers (R60 to R63; the shape of `disassemble` is the model's). -/
def Obligations.DisassembleInvertsAssemble : Prop :=
  (∀ (i : Instr) (o : Operand) (rest : List DataByte), i.wf = true → o.fits i = true →
    disassemble (assemble i o ++ rest) = .accepted i o rest) ∧
  (∀ (bytes : List DataByte) (i : Instr) (o : Operand) (rest : List DataByte),
    disassemble bytes = .accepted i o rest →
      i.wf = true ∧ o.fits i = true ∧ bytes = assemble i o ++ rest)

/-- Encodings written out from the table of spec/95_test_vectors.md 1.3, the byte 0xEA of its 2.1, and lists that
end too early: that `disassemble` rejects those two under these names is the model's own shape (DESIGN CHOICE, log
entry 15). -/
def Obligations.SampleWordsDecode : Prop :=
  disassemble [0b10101001, 0x2A] = .accepted .ldaImm (.byte 0x2A) [] ∧
  disassemble [0b10100101, 0x2A] = .accepted .ldaZp (.byte 0x2A) [] ∧
  disassemble [0b10110101, 0x2A] = .accepted .ldaZpx (.byte 0x2A) [] ∧
  disassemble [0b00100000, 0x34, 0x12] = .accepted .jsrAbs (.target 0x1234) [] ∧
  disassemble [0xEA, 0x01] = .accepted (.unimplemented 0xEA) .none [0x01] ∧
  disassemble [] = .rejected .noOpcode ∧
  disassemble [0x20, 0x34] = .rejected (.operandMissing .jsrAbs)

/-- R62: how each operand is formed from the instruction bytes. -/
def Obligations.OperandsAreAssembled : Prop :=
  (∀ s : State, s.pc ≠ 0xFFFF →
    ∃ s', exec .ldaImm s = .next s' ∧ s'.a = s.mem.read s.pc) ∧
  (∀ zp : DataByte, zeroPageAddress zp = concatBytes 0x00 zp ∧ (zeroPageAddress zp).toNat = zp.toNat) ∧
  (∀ zp x : DataByte, (zeroPageXAddress zp x).toNat = (zp.toNat + x.toNat) % 256) ∧
  (∀ hi lo : DataByte, (concatBytes hi lo).toNat = 256 * hi.toNat + lo.toNat ∧
    highByte (concatBytes hi lo) = hi ∧ lowByte (concatBytes hi lo) = lo)

/-! ## Memory (spec/20_memory.md) -/

/-- R42: a read returns the cell and changes nothing (the model's record of the port, log entry 9, apart); a
write sets the one cell, and no cycle is charged by either. -/
def Obligations.MemoryPrimitives : Prop :=
  (∀ (s : State) (addr : Address), (portRead addr s).1 = s.mem.read addr ∧
    (portRead addr s).2 = { s with bus := s.bus ++ [.read addr (s.mem.read addr)] }) ∧
  (∀ (m : Memory) (addr : Address) (v : DataByte), (m.write addr v).read addr = v) ∧
  (∀ (m : Memory) (addr other : Address) (v : DataByte), other ≠ addr →
    (m.write addr v).read other = m.read other)

/-- In the canonical form (log entry 6) a memory is determined by what its 65536 cells read as. -/
def Obligations.CanonicalMemoryIsItsCells : Prop :=
  ∀ m m' : Memory, m.wf → m'.wf → (∀ addr : Address, m.read addr = m'.read addr) → m = m'

/-- What one step of the engine does to the memory is what the memory port shows: every read returned the
most recent value in program order, and the memory after is the one the writes leave (R50, R57). -/
def Obligations.MemoryPortInProgramOrder : Prop :=
  ∀ s s' : State, engineStep s = .next s' → replay s.mem s'.bus = some s'.mem

/-- R48: reach of each instruction. -/
def Obligations.ReachOfInstructions : Prop :=
  (∀ s : State, (∃ v s', fetch8 s = .ok v s') ↔ s.pc ≤ 0xFFFE) ∧
  (∀ s s' : State, engineStep s = .next s' → s.mem.read s.pc = 0xA5 → s.pc ≤ 0xFFFD →
    s'.bus = fetches s.mem s.pc 2 ++
      [.read (zeroPageAddress (s.mem.read (s.pc + 1)))
        (s.mem.read (zeroPageAddress (s.mem.read (s.pc + 1))))]) ∧
  (∀ s s' : State, engineStep s = .next s' → s.mem.read s.pc = 0xB5 → s.pc ≤ 0xFFFD →
    s'.bus = fetches s.mem s.pc 2 ++
      [.read (zeroPageXAddress (s.mem.read (s.pc + 1)) s.x)
        (s.mem.read (zeroPageXAddress (s.mem.read (s.pc + 1)) s.x))]) ∧
  (∀ zp x : DataByte, zeroPageAddress zp ≤ 0x00FF ∧ zeroPageXAddress zp x ≤ 0x00FF) ∧
  (∀ s s' : State, engineStep s = .next s' → ∀ addr v, BusOp.write addr v ∈ s'.bus →
    s.mem.read s.pc = 0x20 ∧ (addr = stackAddress s.sp ∨ addr = stackAddress (s.sp - 1)) ∧
    0x0100 ≤ addr ∧ addr ≤ 0x01FF) ∧
  (∀ s s' : State, engineStep s = .next s' → ∀ addr v, BusOp.read addr v ∈ s'.bus →
    addr = s.pc ∨ addr = s.pc + 1 ∨ addr = s.pc + 2 ∨ addr ≤ 0x00FF) ∧
  (∀ s s' : State, engineStep s = .next s' → ∀ addr : Address, addr < 0x0100 ∨ 0x01FF < addr →
    s'.mem.read addr = s.mem.read addr) ∧
  (∀ s : State, s.mem.read s.pc = 0x20 → s.pc ≤ 0xFFFC → 2 ≤ s.sp →
    ∃ s', engineStep s = .next s' ∧
      s'.pc = concatBytes (s.mem.read (s.pc + 2)) (s.mem.read (s.pc + 1)))

/-! ## The micro-operations (spec/40_engine_fetch_dispatch.md) -/

/-- `Charge(n)` (R82; the saturation is the spec's decision D8). -/
def Obligations.ChargeSaturatesBudget : Prop :=
  ∀ (n : Nat) (s : State),
    charge n s = { s with icyc := s.icyc + BitVec.ofNat 3 n, budget := budgetAfter s.budget n } ∧
    (charge n s).budget.toNat = s.budget.toNat - n

/-- `Fetch8` (R83; the failure at 0xFFFF and its order are the spec's decisions D3 and D25). -/
def Obligations.FetchByteAdvancesOrFails : Prop :=
  ∀ s : State,
    let v := s.mem.read s.pc
    (s.pc ≠ 0xFFFF →
      fetch8 s = .ok v
        { s with
          pc := s.pc + 1, icyc := s.icyc + 1, budget := budgetAfter s.budget 1,
          bus := s.bus ++ [.read s.pc v] } ∧
      (s.pc + 1).toNat = s.pc.toNat + 1) ∧
    (s.pc = 0xFFFF →
      fetch8 s = .raised
        { s with
          run := .halted, cause := .outOfBoundsAddress, info := 0x10000,
          bus := s.bus ++ [.read 0xFFFF v] })

/-- `FetchAddr` (R84): little-endian, charged 3 in all (the assembling charge of 1 is the spec's decision D9),
with the state each failing fetch leaves (D3, D25). -/
def Obligations.FetchAddressLittleEndian : Prop :=
  ∀ s : State,
    let lo := s.mem.read s.pc
    let hi := s.mem.read (s.pc + 1)
    (s.pc ≤ 0xFFFD →
      fetchAddr s = .ok (concatBytes hi lo)
        { s with
          pc := s.pc + 2, icyc := s.icyc + 3, budget := budgetAfter s.budget 3,
          bus := s.bus ++ [.read s.pc lo, .read (s.pc + 1) hi] }) ∧
    (s.pc = 0xFFFE →
      fetchAddr s = .raised
        { s with
          pc := 0xFFFF, icyc := s.icyc + 1, budget := budgetAfter s.budget 1, run := .halted,
          cause := .outOfBoundsAddress, info := 0x10000,
          bus := s.bus ++ [.read 0xFFFE lo, .read 0xFFFF hi] }) ∧
    (s.pc = 0xFFFF →
      fetchAddr s = .raised
        { s with
          run := .halted, cause := .outOfBoundsAddress, info := 0x10000,
          bus := s.bus ++ [.read 0xFFFF lo] })

/-- The charged data read and the charged data write (R85, R86); neither can fail. The charge is R82's, its
saturation the spec's decision D8 (log entry 13); the port record is the model's (log entry 9). -/
def Obligations.DataAccessIsCharged : Prop :=
  (∀ (addr : Address) (s : State),
    read8 addr s =
      (s.mem.read addr,
        { s with
          icyc := s.icyc + 1, budget := budgetAfter s.budget 1,
          bus := s.bus ++ [.read addr (s.mem.read addr)] })) ∧
  (∀ (addr : Address) (v : DataByte) (s : State),
    (write8 addr v s).mem.read addr = v ∧
    (∀ other, other ≠ addr → (write8 addr v s).mem.read other = s.mem.read other) ∧
    write8 addr v s =
      { s with
        mem := s.mem.write addr v, icyc := s.icyc + 1, budget := budgetAfter s.budget 1,
        bus := s.bus ++ [.write addr v] })

/-- `Push8` (R87): write at `{0x01, SP}`, charge, then the guarded decrement (the order is the spec's decision
D11). -/
def Obligations.PushWritesThenDecrements : Prop :=
  ∀ (v : DataByte) (s : State),
    let pushed : State :=
      { s with
        mem := s.mem.write (0x0100 + s.sp.setWidth 16) v, icyc := s.icyc + 1,
        budget := budgetAfter s.budget 1, bus := s.bus ++ [.write (0x0100 + s.sp.setWidth 16) v] }
    (s.sp ≠ 0x00 → push8 v s = .ok () { pushed with sp := s.sp - 1 }) ∧
    (s.sp = 0x00 →
      push8 v s = .raised { pushed with run := .halted, cause := .stackOverflow, info := 0 })

/-- R88: `SetZN(v)` assigns Z and N from `v` alone and touches nothing else. -/
def Obligations.RecomputeZeroAndNegative : Prop :=
  ∀ (v : DataByte) (s : State),
    ((setZN v s).p.z = true ↔ v = 0x00) ∧ (setZN v s).p.n = v.getLsbD 7 ∧
    ¬ ((setZN v s).p.z = true ∧ (setZN v s).p.n = true) ∧
    (setZN v s).p.c = s.p.c ∧ (setZN v s).p.i = s.p.i ∧ (setZN v s).p.d = s.p.d ∧
    (setZN v s).p.b = s.p.b ∧ (setZN v s).p.v = s.p.v ∧
    (∀ z n : Bool, setZN v { s with p := { s.p with z := z, n := n } } = setZN v s) ∧
    { setZN v s with p := s.p } = s

/-- The packed byte view (R22). PRESUMED, log entry 5: the positions are the 6502 family's (D7). -/
def Obligations.PackedStatusView : Prop :=
  (∀ p : Status,
    (packStatus p).getLsbD 0 = p.c ∧ (packStatus p).getLsbD 1 = p.z ∧
    (packStatus p).getLsbD 2 = p.i ∧ (packStatus p).getLsbD 3 = p.d ∧
    (packStatus p).getLsbD 4 = p.b ∧ (packStatus p).getLsbD 5 = false ∧
    (packStatus p).getLsbD 6 = p.v ∧ (packStatus p).getLsbD 7 = p.n ∧
    unpackStatus (packStatus p) = p) ∧
  (∀ v : DataByte, packStatus (unpackStatus v) = v &&& 0xDF)

/-! ## The handlers, from their entry (PC past the opcode byte) -/

/-- LDA Immediate from its entry completes exactly where its operand fetch does not fail. -/
def Obligations.LdaImmediateCompletes : Prop :=
  ∀ s : State, s.pc ≠ 0xFFFF →
    let v := s.mem.read s.pc
    exec .ldaImm s = .next
      { s with
        pc := s.pc + 1, a := v, p := { s.p with z := v == 0x00, n := v.getLsbD 7 },
        icyc := s.icyc + 1, budget := budgetAfter s.budget 1, bus := s.bus ++ [.read s.pc v] }

/-- LDA Zero Page from its entry. -/
def Obligations.LdaZeroPageCompletes : Prop :=
  ∀ s : State, s.pc ≠ 0xFFFF →
    let zp := s.mem.read s.pc
    let v := s.mem.read (zp.setWidth 16)
    exec .ldaZp s = .next
      { s with
        pc := s.pc + 1, a := v, p := { s.p with z := v == 0x00, n := v.getLsbD 7 },
        icyc := s.icyc + 2, budget := budgetAfter s.budget 2,
        bus := s.bus ++ [.read s.pc zp, .read (zp.setWidth 16) v] }

/-- LDA Zero Page,X from its entry. -/
def Obligations.LdaZeroPageXCompletes : Prop :=
  ∀ s : State, s.pc ≠ 0xFFFF →
    let zp := s.mem.read s.pc
    let ea : Address := (zp + s.x).setWidth 16
    let v := s.mem.read ea
    exec .ldaZpx s = .next
      { s with
        pc := s.pc + 1, a := v, p := { s.p with z := v == 0x00, n := v.getLsbD 7 },
        icyc := s.icyc + 3, budget := budgetAfter s.budget 3,
        bus := s.bus ++ [.read s.pc zp, .read ea v] }

/-- JSR Absolute from its entry (the split of its charges is the spec's decision D9, the two pushed bytes
D10). -/
def Obligations.JsrCompletes : Prop :=
  ∀ s : State, s.pc ≤ 0xFFFD → 2 ≤ s.sp →
    let lo := s.mem.read s.pc
    let hi := s.mem.read (s.pc + 1)
    let ret := s.pc + 1
    exec .jsrAbs s = .next
      { s with
        pc := concatBytes hi lo, sp := s.sp - 2,
        mem := (s.mem.write (stackAddress s.sp) (highByte ret)).write (stackAddress (s.sp - 1))
          (lowByte ret),
        icyc := s.icyc + 5, budget := budgetAfter s.budget 5,
        bus := s.bus ++
          [.read s.pc lo, .read (s.pc + 1) hi, .write (stackAddress s.sp) (highByte ret),
            .write (stackAddress (s.sp - 1)) (lowByte ret)] }

/-- The Unimplemented handler always raises UnimplementedOpcode(byte): that entry is its own effect (R120). -/
def Obligations.UnimplementedRaises : Prop :=
  ∀ (b : DataByte) (s : State),
    exec (.unimplemented b) s = .next
      { s with run := .halted, cause := .unimplementedOpcode, info := b.setWidth 17 }

/-- Frame of the three LDA forms: whatever they answer, the registers, flags and memory they do not govern are
unchanged, and RUN, CAUSE and INFO are unless the operand fetch fails. -/
def Obligations.LdaFrame : Prop :=
  ∀ (i : Instr) (s s' : State), i = .ldaImm ∨ i = .ldaZp ∨ i = .ldaZpx → exec i s = .next s' →
    s'.sp = s.sp ∧ s'.x = s.x ∧ s'.y = s.y ∧
    s'.p.c = s.p.c ∧ s'.p.i = s.p.i ∧ s'.p.d = s.p.d ∧ s'.p.b = s.p.b ∧ s'.p.v = s.p.v ∧
    s'.hostMoves = s.hostMoves ∧
    (∀ addr : Address, s'.mem.read addr = s.mem.read addr) ∧
    (s.pc ≠ 0xFFFF → s'.run = s.run ∧ s'.cause = s.cause ∧ s'.info = s.info) ∧
    (s.pc = 0xFFFF → s'.pc = s.pc ∧ s'.a = s.a ∧ s'.p = s.p ∧ s'.icyc = s.icyc ∧
      s'.budget = s.budget)

/-- Frame of JSR: A, X, Y and all flags unchanged; of memory, every byte outside the one or two it pushes to;
RUN, CAUSE and INFO unless it fails. -/
def Obligations.JsrFrame : Prop :=
  ∀ s s' : State, exec .jsrAbs s = .next s' →
    s'.a = s.a ∧ s'.x = s.x ∧ s'.y = s.y ∧ s'.p = s.p ∧ s'.hostMoves = s.hostMoves ∧
    (∀ addr : Address, addr ≠ stackAddress s.sp →
      (s.sp ≠ 0 → addr ≠ stackAddress (s.sp - 1)) → s'.mem.read addr = s.mem.read addr) ∧
    (0xFFFD < s.pc → s'.mem = s.mem ∧ s'.sp = s.sp) ∧
    (s.pc ≤ 0xFFFD → 2 ≤ s.sp → s'.run = s.run ∧ s'.cause = s.cause ∧ s'.info = s.info)

/-- Frame of the Unimplemented handler: only RUN, CAUSE and INFO are written (R120). -/
def Obligations.UnimplementedFrame : Prop :=
  ∀ (b : DataByte) (s s' : State), exec (.unimplemented b) s = .next s' →
    s'.pc = s.pc ∧ s'.sp = s.sp ∧ s'.a = s.a ∧ s'.x = s.x ∧ s'.y = s.y ∧ s'.p = s.p ∧
    s'.budget = s.budget ∧ s'.icyc = s.icyc ∧ s'.bus = s.bus ∧ s'.hostMoves = s.hostMoves ∧
    ∀ addr : Address, s'.mem.read addr = s.mem.read addr

/-! ## One step of the engine (spec/41_lda.md, 42_jsr.md, 43_unimplemented.md) -/

/-- A step clears ICYC, fetches the opcode, decodes it and dispatches (R81), and ends at a fetch that fails (the
spec's decision D3, log entry 11); the machine's step adds the loop test of R80 after it (log entry 10). The charge
saturates by D8 (log entry 13), and the port record is the model's (log entry 9). -/
def Obligations.StepRunsDecodedInstruction : Prop :=
  ∀ s : State,
    (s.pc ≠ 0xFFFF →
      engineStep s = exec (decode (s.mem.read s.pc))
        { s with
          pc := s.pc + 1, icyc := 1, budget := budgetAfter s.budget 1,
          bus := [.read s.pc (s.mem.read s.pc)] }) ∧
    (∀ t, fetch8 { s with icyc := 0, bus := [] } = .raised t → engineStep s = .next t) ∧
    (s.run = .running → s.budget ≠ 0 →
      ∃ t, engineStep s = .next t ∧
        step s = .next
          (if t.run = .running ∧ t.budget = 0 then
            { t with run := .halted, cause := .budgetExhausted }
          else t))

/-- R100: LDA Immediate, its end state and its two failures (which go back to the spec's decisions D3 and
D25). -/
def Obligations.LdaImmediateStep : Prop :=
  ∀ s : State, s.mem.read s.pc = 0xA9 →
    let v := s.mem.read (s.pc + 1)
    (s.pc ≤ 0xFFFD →
      engineStep s = .next
        { s with
          pc := s.pc + 2, a := v, p := { s.p with z := v == 0x00, n := v.getLsbD 7 }, icyc := 2,
          budget := budgetAfter s.budget 2, bus := [.read s.pc 0xA9, .read (s.pc + 1) v] }) ∧
    (s.pc = 0xFFFE →
      engineStep s = .next
        { s with
          pc := 0xFFFF, icyc := 1, budget := budgetAfter s.budget 1, run := .halted,
          cause := .outOfBoundsAddress, info := 0x10000,
          bus := [.read 0xFFFE 0xA9, .read 0xFFFF v] }) ∧
    (s.pc = 0xFFFF →
      engineStep s = .next
        { s with
          icyc := 0, run := .halted, cause := .outOfBoundsAddress, info := 0x10000,
          bus := [.read 0xFFFF 0xA9] })

/-- R101: LDA Zero Page, its end state and its two failures (D3, D25). -/
def Obligations.LdaZeroPageStep : Prop :=
  ∀ s : State, s.mem.read s.pc = 0xA5 →
    let zp := s.mem.read (s.pc + 1)
    let v := s.mem.read (zp.setWidth 16)
    (s.pc ≤ 0xFFFD →
      engineStep s = .next
        { s with
          pc := s.pc + 2, a := v, p := { s.p with z := v == 0x00, n := v.getLsbD 7 }, icyc := 3,
          budget := budgetAfter s.budget 3,
          bus := [.read s.pc 0xA5, .read (s.pc + 1) zp, .read (zp.setWidth 16) v] }) ∧
    (s.pc = 0xFFFE →
      engineStep s = .next
        { s with
          pc := 0xFFFF, icyc := 1, budget := budgetAfter s.budget 1, run := .halted,
          cause := .outOfBoundsAddress, info := 0x10000,
          bus := [.read 0xFFFE 0xA5, .read 0xFFFF zp] }) ∧
    (s.pc = 0xFFFF →
      engineStep s = .next
        { s with
          icyc := 0, run := .halted, cause := .outOfBoundsAddress, info := 0x10000,
          bus := [.read 0xFFFF 0xA5] })

/-- R102: LDA Zero Page,X, its end state and its two failures (D3, D25); the sum wraps within page 0. -/
def Obligations.LdaZeroPageXStep : Prop :=
  ∀ s : State, s.mem.read s.pc = 0xB5 →
    let zp := s.mem.read (s.pc + 1)
    let ea : Address := BitVec.ofNat 16 ((zp.toNat + s.x.toNat) % 256)
    let v := s.mem.read ea
    (s.pc ≤ 0xFFFD →
      engineStep s = .next
        { s with
          pc := s.pc + 2, a := v, p := { s.p with z := v == 0x00, n := v.getLsbD 7 }, icyc := 4,
          budget := budgetAfter s.budget 4,
          bus := [.read s.pc 0xB5, .read (s.pc + 1) zp, .read ea v] }) ∧
    (s.pc = 0xFFFE →
      engineStep s = .next
        { s with
          pc := 0xFFFF, icyc := 1, budget := budgetAfter s.budget 1, run := .halted,
          cause := .outOfBoundsAddress, info := 0x10000,
          bus := [.read 0xFFFE 0xB5, .read 0xFFFF zp] }) ∧
    (s.pc = 0xFFFF →
      engineStep s = .next
        { s with
          icyc := 0, run := .halted, cause := .outOfBoundsAddress, info := 0x10000,
          bus := [.read 0xFFFF 0xB5] })

/-- R103: on every LDA that completes, A is exactly the byte read last and Z and N are functions of it alone;
if a fetch of the instruction fails, neither A nor a flag is written. -/
def Obligations.LdaLoadsTheByteRead : Prop :=
  ∀ s s' : State, (decode (s.mem.read s.pc)).kind = .lda → engineStep s = .next s' →
    (s.pc ≤ 0xFFFD →
      ∃ addr, s'.bus.getLast? = some (.read addr s'.a) ∧
        (s'.p.z = true ↔ s'.a = 0x00) ∧ s'.p.n = s'.a.getLsbD 7) ∧
    (0xFFFD < s.pc → s'.a = s.a ∧ s'.p = s.p)

/-- JSR, row by row of the table of R112. The table rests on the spec's decisions D3 and D25 (the three fetch
failures), D9 (the charges), D10 (the two bytes) and D11 (write before the check). -/
def Obligations.JsrStepTable : Prop :=
  ∀ s : State, s.mem.read s.pc = 0x20 →
    let lo := s.mem.read (s.pc + 1)
    let hi := s.mem.read (s.pc + 2)
    let ret := s.pc + 2
    let failed (c : Cause) (t : State) : State := { t with run := .halted, cause := c }
    (s.pc = 0xFFFF →
      engineStep s = .next (failed .outOfBoundsAddress
        { s with icyc := 0, info := 0x10000, bus := [.read 0xFFFF 0x20] })) ∧
    (s.pc = 0xFFFE →
      engineStep s = .next (failed .outOfBoundsAddress
        { s with
          pc := 0xFFFF, icyc := 1, budget := budgetAfter s.budget 1, info := 0x10000,
          bus := [.read 0xFFFE 0x20, .read 0xFFFF lo] })) ∧
    (s.pc = 0xFFFD →
      engineStep s = .next (failed .outOfBoundsAddress
        { s with
          pc := 0xFFFF, icyc := 2, budget := budgetAfter s.budget 2, info := 0x10000,
          bus := [.read 0xFFFD 0x20, .read 0xFFFE lo, .read 0xFFFF hi] })) ∧
    (s.pc ≤ 0xFFFC → s.sp = 0x00 →
      engineStep s = .next (failed .stackOverflow
        { s with
          pc := s.pc + 3, mem := s.mem.write 0x0100 (highByte ret), icyc := 5,
          budget := budgetAfter s.budget 5, info := 0,
          bus := fetches s.mem s.pc 3 ++ [.write 0x0100 (highByte ret)] })) ∧
    (s.pc ≤ 0xFFFC → s.sp = 0x01 →
      engineStep s = .next (failed .stackOverflow
        { s with
          pc := s.pc + 3, sp := 0x00,
          mem := (s.mem.write 0x0101 (highByte ret)).write 0x0100 (lowByte ret), icyc := 6,
          budget := budgetAfter s.budget 6, info := 0,
          bus := fetches s.mem s.pc 3 ++
            [.write 0x0101 (highByte ret), .write 0x0100 (lowByte ret)] })) ∧
    (s.pc ≤ 0xFFFC → 2 ≤ s.sp →
      engineStep s = .next
        { s with
          pc := concatBytes hi lo, sp := s.sp - 2,
          mem := (s.mem.write (stackAddress s.sp) (highByte ret)).write (stackAddress (s.sp - 1))
            (lowByte ret),
          icyc := 6, budget := budgetAfter s.budget 6,
          bus := fetches s.mem s.pc 3 ++
            [.write (stackAddress s.sp) (highByte ret),
              .write (stackAddress (s.sp - 1)) (lowByte ret)] })

/-- The return address a completed JSR leaves on the stack is the address of its last byte, whatever the
target, low byte at the lower address (R111, C1; the byte order is the spec's decision D10). -/
def Obligations.JsrPushesLastByteAddress : Prop :=
  ∀ s : State, s.mem.read s.pc = 0x20 → s.pc ≤ 0xFFFC → 2 ≤ s.sp →
    ∃ s', engineStep s = .next s' ∧
      concatBytes (s'.mem.read (stackAddress s.sp)) (s'.mem.read (stackAddress (s.sp - 1))) =
        s.pc + 2 ∧
      (s.pc + 2).toNat = s.pc.toNat + 2 ∧
      (stackAddress (s.sp - 1)).toNat + 1 = (stackAddress s.sp).toNat

/-- R120: Unimplemented opcode. The step consumes the opcode fetch's cycle, leaves PC past the byte and halts
with the byte in INFO; the cause stands whatever the budget. -/
def Obligations.UnimplementedStep : Prop :=
  ∀ s : State, s.mem.read s.pc ∉ knownOpcodes →
    let b := s.mem.read s.pc
    let halted : State :=
      { s with
        pc := s.pc + 1, icyc := 1, budget := budgetAfter s.budget 1, run := .halted,
        cause := .unimplementedOpcode, info := b.setWidth 17, bus := [.read s.pc b] }
    (s.pc ≠ 0xFFFF → engineStep s = .next halted ∧
      (s.run = .running → s.budget ≠ 0 → step s = .next halted)) ∧
    (s.pc = 0xFFFF →
      engineStep s = .next
        { s with
          icyc := 0, run := .halted, cause := .outOfBoundsAddress, info := 0x10000,
          bus := [.read 0xFFFF b] })

/-- A step takes exactly the bytes of its instruction: with the bytes of a whole instruction at PC, its first
port transactions are the fetches of those bytes, and PC ends past them unless JSR replaces it
(R11, R60, R66). -/
def Obligations.StepConsumesItsBytes : Prop :=
  ∀ (i : Instr) (o : Operand) (s : State), i.wf = true → o.fits i = true →
    s.pc.toNat + i.length ≤ 0xFFFF →
    (∀ k, k < i.length → some (s.mem.read (s.pc + BitVec.ofNat 16 k)) = (assemble i o)[k]?) →
    ∃ s', engineStep s = .next s' ∧
      s'.bus.take i.length = fetches s.mem s.pc i.length ∧
      (i ≠ .jsrAbs → s'.pc = s.pc + BitVec.ofNat 16 i.length) ∧
      (∀ t, o = .target t → 2 ≤ s.sp → s'.pc = t)

/-- A completed step's ICYC is the cycles column of the decode table (R90). -/
def Obligations.CompletedStepCyclesAreTable : Prop :=
  ∀ s s' : State, s.run = .running → engineStep s = .next s' → s'.run = .running →
    (decode (s.mem.read s.pc)).baseCycles? = some s'.icyc.toNat

/-- The byte accesses of each instruction (R46), and that each is charged one cycle (R57): where no fetch and no
push fails, a step's cycles are its transactions and one internal operation more for Zero Page,X and for JSR
(D9). -/
def Obligations.AccessesAreChargedOnce : Prop :=
  ∀ s s' : State, engineStep s = .next s' → s.pc ≤ 0xFFFC → 2 ≤ s.sp →
    match decode (s.mem.read s.pc) with
    | .ldaImm => readCount s'.bus = 2 ∧ writeCount s'.bus = 0 ∧ s'.icyc.toNat = s'.bus.length
    | .ldaZp => readCount s'.bus = 3 ∧ writeCount s'.bus = 0 ∧ s'.icyc.toNat = s'.bus.length
    | .ldaZpx => readCount s'.bus = 3 ∧ writeCount s'.bus = 0 ∧ s'.icyc.toNat = s'.bus.length + 1
    | .jsrAbs => readCount s'.bus = 3 ∧ writeCount s'.bus = 2 ∧ s'.icyc.toNat = s'.bus.length + 1
    | .unimplemented _ => readCount s'.bus = 1 ∧ writeCount s'.bus = 0 ∧ s'.icyc.toNat = 1

/-! ## Registers and flags over all instructions (spec/10_state.md) -/

/-- Who writes A, X and Y, and who reads them (R13, R14, R15). The host's acts stand in the model's queue (log
entry 8), the byte read last in its record of the port (log entry 9), and that an LDA completes from PC at most
0xFFFD is the spec's decision D3 (log entry 11). -/
def Obligations.AccumulatorAndIndexAccess : Prop :=
  (∀ s s' : State, engineStep s = .next s' →
    (s'.a ≠ s.a → (decode (s.mem.read s.pc)).kind = .lda) ∧ s'.x = s.x ∧ s'.y = s.y ∧
    ((decode (s.mem.read s.pc)).kind = .lda → s.pc ≤ 0xFFFD →
      ∃ addr, s'.bus.getLast? = some (.read addr s'.a)) ∧
    (s.mem.read s.pc = 0xB5 → s.pc ≤ 0xFFFD →
      s'.bus.getLast? = some (.read (zeroPageXAddress (s.mem.read (s.pc + 1)) s.x) s'.a))) ∧
  (∀ s s' : State, step s = .next s' →
    (s'.a ≠ s.a → (s.run = .running ∧ (decode (s.mem.read s.pc)).kind = .lda ∧ s.pc ≤ 0xFFFD) ∨
      (s.run = .halted ∧ ∃ m rest, s.hostMoves = m :: rest ∧
        (m = .writeA s'.a ∨ ∃ cfg, m = .construct cfg))) ∧
    (s'.x ≠ s.x → s.run = .halted ∧ ∃ m rest, s.hostMoves = m :: rest ∧
      (m = .writeX s'.x ∨ ∃ cfg, m = .construct cfg)) ∧
    (s'.y ≠ s.y → s.run = .halted ∧ ∃ m rest, s.hostMoves = m :: rest ∧
      (m = .writeY s'.y ∨ ∃ cfg, m = .construct cfg))) ∧
  (∀ (s s' : State) (v : DataByte), engineStep s = .next s' →
    ∃ a', engineStep { s with a := v } = .next { s' with a := a' }) ∧
  (∀ (s s' : State) (v : DataByte), engineStep s = .next s' →
    engineStep { s with y := v } = .next { s' with y := v }) ∧
  (∀ (s s' : State) (v : DataByte), engineStep s = .next s' → s.mem.read s.pc ≠ 0xB5 →
    engineStep { s with x := v } = .next { s' with x := v })

/-- Z and N are written by every LDA that completes, by no other instruction, and read by none (R18, R19); beside
an LDA only the host's acts on them write them, while Halted (log entry 8), and construction gives them their
parameter (the spec's decision D6, log entry 3). That an LDA above 0xFFFD does not complete, and then writes no
flag (R103), is its decision D3 (log entry 11). -/
def Obligations.ZeroAndNegativeWrites : Prop :=
  (∀ s s' : State, engineStep s = .next s' →
    ((decode (s.mem.read s.pc)).kind = .lda ∧ s.pc ≤ 0xFFFD →
      (s'.p.z = true ↔ s'.a = 0x00) ∧ s'.p.n = s'.a.getLsbD 7) ∧
    (¬ ((decode (s.mem.read s.pc)).kind = .lda ∧ s.pc ≤ 0xFFFD) →
      s'.p.z = s.p.z ∧ s'.p.n = s.p.n)) ∧
  (∀ (s s' : State) (z n : Bool), engineStep s = .next s' →
    ∃ p', engineStep { s with p := { s.p with z := z, n := n } } = .next { s' with p := p' }) ∧
  (∀ s s' : State, step s = .next s' →
    (s'.p.z ≠ s.p.z → (s.run = .running ∧ (decode (s.mem.read s.pc)).kind = .lda ∧ s.pc ≤ 0xFFFD) ∨
      (s.run = .halted ∧ ∃ m rest, s.hostMoves = m :: rest ∧
        (m = .writeFlag .z s'.p.z ∨ (∃ v, m = .writeStatus v) ∨ ∃ cfg, m = .construct cfg))) ∧
    (s'.p.n ≠ s.p.n → (s.run = .running ∧ (decode (s.mem.read s.pc)).kind = .lda ∧ s.pc ≤ 0xFFFD) ∨
      (s.run = .halted ∧ ∃ m rest, s.hostMoves = m :: rest ∧
        (m = .writeFlag .n s'.p.n ∨ (∃ v, m = .writeStatus v) ∨ ∃ cfg, m = .construct cfg)))) ∧
  (∀ (cfg : Config) (s : State), (constructBlock cfg s).p.z = cfg.initP.z ∧
    (constructBlock cfg s).p.n = cfg.initP.n)

/-- R20, and the same of I, D and B (R21, the spec's decision D22): five flags are storage only. No step of the
engine changes them, changing them changes nothing else, and only the host's acts on P write them. -/
def Obligations.StorageFlagsAreInert : Prop :=
  (∀ s s' : State, engineStep s = .next s' →
    s'.p.c = s.p.c ∧ s'.p.i = s.p.i ∧ s'.p.d = s.p.d ∧ s'.p.b = s.p.b ∧ s'.p.v = s.p.v) ∧
  (∀ (s s' : State) (c i d b v : Bool), engineStep s = .next s' →
    engineStep { s with p := { s.p with c := c, i := i, d := d, b := b, v := v } } =
      .next { s' with p := { s'.p with c := c, i := i, d := d, b := b, v := v } }) ∧
  (∀ s s' : State, step s = .next s' →
    s'.p.c ≠ s.p.c ∨ s'.p.i ≠ s.p.i ∨ s'.p.d ≠ s.p.d ∨ s'.p.b ≠ s.p.b ∨ s'.p.v ≠ s.p.v →
    s.run = .halted ∧ ∃ m rest, s.hostMoves = m :: rest ∧
      ((∃ f v, m = .writeFlag f v) ∨ (∃ v, m = .writeStatus v) ∨ ∃ cfg, m = .construct cfg))

/-- BUDGET (R24). The start of a run, an act of the model's queue (log entry 8), loads it; a step of the engine
takes from it the cycles it charged, never below zero (the spec's decision D8, log entry 13); no step starts when it
is 0: a Running state with BUDGET 0, which no run reaches, ends the run (log entry 10); after the run the host reads
the remainder. -/
def Obligations.BudgetCountsDown : Prop :=
  (∀ (s : State) (b : Budget) (rest : List HostMove), s.run = .halted →
    s.hostMoves = .start b :: rest → ∃ s', step s = .next s' ∧ s'.budget = b) ∧
  (∀ s s' : State, s.run = .running → s.budget ≠ 0 → step s = .next s' →
    s'.budget = budgetAfter s.budget s'.icyc.toNat ∧ s'.budget ≤ s.budget) ∧
  (∀ s : State, s.run = .running → s.budget = 0 →
    step s = .next { s with run := .halted, cause := .budgetExhausted }) ∧
  (∀ s : State, s.run = .halted → hostRead .budget s = some s.budget)

/-- The budget never cuts a step short: under any other budget the same step does the same to everything but
BUDGET, which pays what it can (R91; the saturation is the spec's decision D8). -/
def Obligations.BudgetNeverCutsAStep : Prop :=
  ∀ (s s' : State) (b : Budget), engineStep s = .next s' →
    engineStep { s with budget := b } = .next { s' with budget := budgetAfter b s'.icyc.toNat }

/-! ## Failures, halting and resumption (spec/60_exceptions.md) -/

/-- Taking a failure (R136; that nothing is rolled back is the spec's decision D16) and the numbers of the
causes (R130, the spec's decision D12). -/
def Obligations.FailureEntryAndCodes : Prop :=
  (∀ (f : Failure) (s : State), ∃ c i,
    takeFailure f s = { s with run := .halted, cause := c, info := i } ∧
    (c = .outOfBoundsAddress ∨ c = .stackOverflow ∨ c = .stackUnderflow ∨ c = .unimplementedOpcode) ∧
    (∀ addr, f = .outOfBoundsAddress addr → c.code = 2 ∧ i = addr) ∧
    (f = .stackOverflow → c.code = 3 ∧ i = 0) ∧
    (f = .stackUnderflow → c.code = 4 ∧ i = 0) ∧
    (∀ b, f = .unimplementedOpcode b → c.code = 5 ∧ i.toNat = b.toNat)) ∧
  Cause.none.code = 0 ∧ Cause.budgetExhausted.code = 1

/-- R132: StackOverflow is raised by JSR alone, at its first push when SP is 0 and at its second when SP is 1,
after the byte is written; SP never wraps. -/
def Obligations.StackOverflowOnlyByJsr : Prop :=
  (∀ (v : DataByte) (s : State), (∃ s', push8 v s = .raised s') ↔ s.sp = 0x00) ∧
  (∀ (v : DataByte) (s s' : State), push8 v s = .raised s' →
    s'.cause = .stackOverflow ∧ s'.sp = 0x00 ∧ s'.mem = s.mem.write 0x0100 v) ∧
  (∀ s s' : State, s.cause = .none → engineStep s = .next s' →
    (s'.cause = .stackOverflow ↔
      s.mem.read s.pc = 0x20 ∧ s.pc ≤ 0xFFFC ∧ (s.sp = 0x00 ∨ s.sp = 0x01)) ∧
    s'.sp ≤ s.sp)

/-- UnimplementedOpcode is recorded exactly when the opcode was fetched and is one of the bytes outside the table,
and INFO holds the byte (R134). That the fetch fails exactly at 0xFFFF is the spec's decision D3 (R137, log entry
11), and that its one cycle shows in ICYC is D14 (log entry 13). -/
def Obligations.UnimplementedOpcodeRecorded : Prop :=
  ∀ s s' : State, s.cause = .none → engineStep s = .next s' →
    (s'.cause = .unimplementedOpcode ↔ s.pc ≠ 0xFFFF ∧ s.mem.read s.pc ∉ knownOpcodes) ∧
    (s'.cause = .unimplementedOpcode →
      s'.info = (s.mem.read s.pc).setWidth 17 ∧ s'.run = .halted ∧ s'.icyc = 1)

/-- How a run can end (R130, R137): after one step of a run in progress, the cause is a failure exactly when the
step raised it, BudgetExhausted exactly when the step completed and spent the budget, and none otherwise.
OutOfBoundsAddress rests on the spec's decision D3, the precedence of a failure on D15. -/
def Obligations.HaltCauseOfAStep : Prop :=
  ∀ s s' : State, s.run = .running → s.budget ≠ 0 → s.cause = .none → step s = .next s' →
    (s'.cause = .outOfBoundsAddress ↔
      0xFFFF < s.pc.toNat + (decode (s.mem.read s.pc)).length) ∧
    (s'.cause = .outOfBoundsAddress → s'.info = 0x10000 ∧ s'.pc = 0xFFFF) ∧
    (s'.cause = .budgetExhausted ↔
      s.pc.toNat + (decode (s.mem.read s.pc)).length ≤ 0xFFFF ∧
      (s.mem.read s.pc = 0x20 → 2 ≤ s.sp) ∧
      ∃ c, (decode (s.mem.read s.pc)).baseCycles? = some c ∧ s.budget.toNat ≤ c) ∧
    s'.cause ≠ .stackUnderflow ∧
    (s'.run = .halted ↔ s'.cause ≠ .none)

/-- R146: the state machine of the engine, row by row. -/
def Obligations.RunStateMachine : Prop :=
  (∀ (s : State) (cfg : Config) (rest : List HostMove), s.run = .halted →
    s.hostMoves = .construct cfg :: rest →
    step s = .next { State.ofConfig cfg s.mem with hostMoves := rest }) ∧
  (∀ (s : State) (b : Budget) (rest : List HostMove), s.run = .halted →
    s.hostMoves = .start b :: rest → b ≠ 0 →
    step s = .next
      { s with budget := b, cause := .none, info := 0, run := .running, hostMoves := rest }) ∧
  (∀ (s : State) (rest : List HostMove), s.run = .halted → s.hostMoves = .start 0 :: rest →
    step s = .next { s with budget := 0, cause := .budgetExhausted, info := 0, hostMoves := rest }) ∧
  (∀ s t : State, s.run = .running → s.budget ≠ 0 → engineStep s = .next t →
    (t.run = .running → t.budget ≠ 0 → step s = .next t) ∧
    (t.run = .running → t.budget = 0 →
      step s = .next { t with run := .halted, cause := .budgetExhausted }) ∧
    (t.run = .halted → step s = .next t ∧ ∃ f : Failure, t.cause = f.cause ∧ t.info = f.info)) ∧
  (∀ s : State, s.run = .running → s.budget ≠ 0 →
    ∃ k s', k ≤ s.budget.toNat ∧ core.run k s = .next s' ∧ s'.run = .halted)

/-- R145: everything survives the Halted state, and only the host's start of a run leaves it. -/
def Obligations.HaltedUntilStarted : Prop :=
  (∀ s : State, s.run = .halted → s.hostMoves = [] → step s = .next s) ∧
  (∀ s s' : State, s.run = .halted → step s = .next s' → s'.run = .running →
    ∃ b rest, b ≠ 0 ∧ s.hostMoves = .start b :: rest) ∧
  (∀ cfg m, (State.ofConfig cfg m).run = .halted) ∧ (∀ s : State, (exhausted s).run = .halted) ∧
  (∀ (f : Failure) (s : State), (takeFailure f s).run = .halted)

/-! ## Reset and the host (spec/70_reset_and_hazards.md, spec/10_state.md) -/

/-- R160: construction gives every register its reset value, for every configuration, does not touch memory, and
gives the same again when repeated. BUDGET, ICYC, RUN, CAUSE and INFO at construction are the spec's decision
D24. -/
def Obligations.ConstructionResetsRegisters : Prop :=
  ∀ (cfg : Config) (s : State),
    let t := constructBlock cfg s
    t.pc = cfg.resetAddress ∧ t.sp = cfg.initialSp ∧ t.a = cfg.initA ∧ t.x = cfg.initX ∧
    t.y = cfg.initY ∧ t.p = cfg.initP ∧ t.budget = 0 ∧ t.icyc = 0 ∧ t.run = .halted ∧
    t.cause = .none ∧ t.info = 0 ∧ t.mem = s.mem ∧ constructBlock cfg t = t

/-- The state after reset (R32): the values of `Config.suggested`, which are the model's for the OPEN
parameters (log entries 1, 2 and 3) and the spec's default for SP (log entry 4), beside a zero-filled
memory. -/
def Obligations.ResetStateValues : Prop :=
  State.reset = State.ofConfig Config.suggested [] ∧ State.reset.sp = 0xFF ∧
  State.reset.run = .halted ∧ State.reset.cause = .none ∧ State.reset.budget = 0 ∧
  State.reset.icyc = 0 ∧ State.reset.info = 0 ∧
  ∀ addr : Address, State.reset.mem.read addr = 0x00

/-- R161: the entry point is RESET_ADDRESS, whatever its value and with no vector read: the first port
transaction of the first run is the read of that address; 0xFFFF is accepted and makes the first step fail. -/
def Obligations.FirstFetchAtResetAddress : Prop :=
  ∀ (cfg : Config) (m : Memory) (b : Budget), b ≠ 0 →
    ∃ s', step (startRun b (State.ofConfig cfg m)) = .next s' ∧
      s'.bus.head? = some (.read cfg.resetAddress (m.read cfg.resetAddress)) ∧
      (cfg.resetAddress = 0xFFFF → s'.run = .halted ∧ s'.cause = .outOfBoundsAddress)

/-- What each act of the host does, and what it reads, while the engine is Halted (R33, R41, R80, R160, R163, R169;
that every register and flag is writable is the spec's decision D18, the result of a start with budget 0 D21, the
engine's registers at construction D24). The acts stand in the model's queue (log entry 8). The two clauses on the
packed status byte are PRESUMED (log entry 5): its bit positions are the 6502 family's (D7). -/
def Obligations.HostWritesAndReadsWhileHalted : Prop :=
  (∀ (s : State) (m : HostMove) (rest : List HostMove), s.run = .halted → s.hostMoves = m :: rest →
    let t : State := { s with hostMoves := rest }
    ∃ s', step s = .next s' ∧
      (∀ v, m = .writePc v → s' = { t with pc := v }) ∧
      (∀ v, m = .writeSp v → s' = { t with sp := v }) ∧
      (∀ v, m = .writeA v → s' = { t with a := v }) ∧
      (∀ v, m = .writeX v → s' = { t with x := v }) ∧
      (∀ v, m = .writeY v → s' = { t with y := v }) ∧
      (∀ v, m = .writeStatus v → s' = { t with p := unpackStatus v }) ∧
      (∀ f v, m = .writeFlag f v → flagOf f s'.p = v ∧
        (∀ g, g ≠ f → flagOf g s'.p = flagOf g s.p) ∧ { s' with p := s.p } = t) ∧
      (∀ addr v, m = .writeMem addr v → s'.mem.read addr = v ∧
        (∀ other, other ≠ addr → s'.mem.read other = s.mem.read other) ∧
        { s' with mem := s.mem } = t) ∧
      (m = .initMemory → (∀ addr : Address, s'.mem.read addr = 0x00) ∧ { s' with mem := s.mem } = t) ∧
      (∀ cfg, m = .construct cfg → s' = { State.ofConfig cfg s.mem with hostMoves := rest }) ∧
      (∀ b, m = .start b → b ≠ 0 →
        s' = { t with budget := b, cause := .none, info := 0, run := .running }) ∧
      (m = .start 0 → s' = { t with budget := 0, cause := .budgetExhausted, info := 0 })) ∧
  (∀ s : State, s.run = .halted →
    hostRead .a s = some (s.a.setWidth 32) ∧ hostRead .pc s = some (s.pc.setWidth 32) ∧
    hostRead .sp s = some (s.sp.setWidth 32) ∧ hostRead .x s = some (s.x.setWidth 32) ∧
    hostRead .y s = some (s.y.setWidth 32) ∧ hostRead .budget s = some s.budget ∧
    hostRead .icyc s = some (s.icyc.setWidth 32) ∧
    hostRead .info s = some (s.info.setWidth 32) ∧
    hostRead .cause s = some (s.cause.code.setWidth 32) ∧
    (∀ addr, hostRead (.mem addr) s = some ((s.mem.read addr).setWidth 32)) ∧
    hostRead .status s = some ((packStatus s.p).setWidth 32) ∧
    (∀ f, hostRead (.flag f) s = some (if flagOf f s.p then 1 else 0))) ∧
  (∀ (r : HostReg) (s : State), s.run = .running → hostRead r s = none)

/-- The acts by which a loader fills memory before a run (R55, R163): as many steps as bytes put the bytes at
ascending addresses and change nothing else. -/
def Obligations.LoaderFillsMemory : Prop :=
  ∀ (base : Nat) (bytes : List DataByte) (rest : List HostMove) (s : State),
    base + bytes.length ≤ 65536 → s.run = .halted → s.hostMoves = loadMoves base bytes ++ rest →
    ∃ m, core.run bytes.length s = .next { s with mem := m, hostMoves := rest } ∧
      (∀ k, k < bytes.length → some (m.read (BitVec.ofNat 16 (base + k))) = bytes[k]?) ∧
      (∀ addr : Address, addr.toNat < base ∨ base + bytes.length ≤ addr.toNat →
        m.read addr = s.mem.read addr)

/-- While the engine is Running no agent but the engine acts (R56): what the host has still to do, which stands in
the model's queue (DESIGN CHOICE, log entry 8), neither changes nor matters. -/
def Obligations.HostHasNoMoveWhileRunning : Prop :=
  ∀ (s s' : State) (moves : List HostMove), s.run = .running → step s = .next s' →
    s'.hostMoves = s.hostMoves ∧
    step { s with hostMoves := moves } = .next { s' with hostMoves := moves }

/-- With an instruction word stored where the next step fetches, that step runs the instruction the decoder
reads from the word (the model's own interface, log entry 7). -/
def Obligations.FetchWordIsRunNext : Prop :=
  ∀ (s : State) (nbits w : Nat), s.pc ≤ 0xFFFC → 8 ≤ nbits →
    ∃ i t, decodeTableWord nbits w = some i ∧
      fetchOpcode (s.withFetchWord nbits w) = .ok (encode i) t ∧
      step (s.withFetchWord nbits w) = thenLoopTest (exec i t)

/-! ## Whole runs -/

/-- No step of the machine stops without a next state, whatever the state. -/
def Obligations.EveryStepHasANextState : Prop :=
  ∀ s : State, ∃ s', step s = .next s'

/-- Every step, of the engine or of the host, keeps the invariant. -/
def Obligations.StepKeepsInvariant : Prop :=
  ∀ s s' : State, s.Inv → step s = .next s' → s'.Inv

/-- The block just constructed meets the invariant, for every configuration. -/
def Obligations.ConstructionMeetsInvariant : Prop :=
  (∀ (cfg : Config) (m : Memory), m.wf → (State.ofConfig cfg m).Inv) ∧ State.reset.Inv

/-- A byte that JSR has just pushed is what the next opcode fetch reads if the jump leads to it, be it the low byte
in the lower of the two stack cells or the high byte in the upper one (R53; the coherence is the spec's decision
D20, the byte order D10). -/
def Obligations.PushedByteIsFetchedNext : Prop :=
  ∀ (s : State) (pushed : DataByte), s.mem.read s.pc = 0x20 → s.pc ≤ 0xFFFC → 2 ≤ s.sp →
    let target := concatBytes (s.mem.read (s.pc + 2)) (s.mem.read (s.pc + 1))
    (target = stackAddress (s.sp - 1) ∧ pushed = lowByte (s.pc + 2)) ∨
      (target = stackAddress s.sp ∧ pushed = highByte (s.pc + 2)) →
    ∃ s' t, engineStep s = .next s' ∧ fetchOpcode s' = .ok pushed t ∧
      engineStep s' = exec (decode pushed) t

/-- `Execute(b)`, written as the spec's loop (R80), is what the machine's steps do from the host's start of a
run on: after one step for the start and at most `b` more, the machine stands in its outcome and stays
there. -/
def Obligations.ExecuteIsIteratedStep : Prop :=
  ∀ (s : State) (b : Budget) (k : Nat), s.run = .halted → s.hostMoves = [.start b] →
    b.toNat + 1 ≤ k →
    ∃ s', execute b { s with hostMoves := [] } = .next s' ∧ core.run k s = .next s' ∧
      s'.run = .halted

/-- The budget decides how many steps run (R94): if the next `k` instructions complete with `c` cycles in all, a
run with `b` cycles left is still in progress after them exactly when `c < b`, and then with exactly their
effects; otherwise it has ended with BudgetExhausted. The saturation is the spec's decision D8 (log entry 13); that
the end falls in the step that spent the budget is log entry 10. -/
def Obligations.BudgetDecidesHowManySteps : Prop :=
  ∀ (k : Nat) (s t : State) (c : Nat), s.run = .running → s.budget ≠ 0 → s.hostMoves = [] →
    completedSteps k s = some (t, c) →
    ∃ s', core.run k s = .next s' ∧ (s'.run = .running ↔ c < s.budget.toNat) ∧
      (c < s.budget.toNat → s' = t) ∧
      (s.budget.toNat ≤ c → s'.cause = .budgetExhausted ∧ s'.budget = 0)

/-- A run that spent its budget, continued with a fresh one, ends as some single run from the same start ends
(R95). -/
def Obligations.SplitRunEqualsSingleRun : Prop :=
  ∀ (s s1 s2 : State) (b b' : Budget), b.toNat + b'.toNat + 5 < 2 ^ 32 →
    execute b s = .next s1 → s1.cause = .budgetExhausted → execute b' s1 = .next s2 →
    ∃ b'' : Budget, execute b'' s = .next s2
end

