-- ==== Sys2Proof/Laws/Memory.lean ====
section
/-! SUPPORT. Every memory operation keeps the canonical form `Memory.wf`. -/

namespace Sys2Proof.Machine

theorem Memory.nil_wf : Memory.wf [] := by simp [Memory.wf]

theorem Memory.mem_insert {k : Nat} {v : DataByte} {m : Memory} {c : Host.Cell} :
    c ∈ Memory.insert k v m ↔ c = (k, v) ∨ c ∈ m := by
  induction m with
  | nil => simp [Memory.insert]
  | cons d rest ih =>
    simp only [Memory.insert]
    split
    · simp
    · simp only [List.mem_cons, ih, or_left_comm]

theorem Memory.pairwise_insert {k : Nat} {v : DataByte} {m : Memory}
    (hm : m.Pairwise (fun c d => c.1 < d.1)) (hk : ∀ c ∈ m, c.1 ≠ k) :
    (Memory.insert k v m).Pairwise (fun c d => c.1 < d.1) := by
  induction m with
  | nil => simp [Memory.insert]
  | cons d rest ih =>
    have hd := List.pairwise_cons.mp hm
    simp only [Memory.insert]
    split
    · rename_i hlt
      refine List.pairwise_cons.mpr ⟨?_, hm⟩
      intro c hc
      rcases List.mem_cons.mp hc with rfl | hc
      · exact hlt
      · exact Nat.lt_trans hlt (hd.1 c hc)
    · rename_i hge
      refine List.pairwise_cons.mpr ⟨?_, ih hd.2 fun c hc => hk c (List.mem_cons_of_mem _ hc)⟩
      intro c hc
      rcases Memory.mem_insert.mp hc with rfl | hc
      · exact Nat.lt_of_le_of_ne (Nat.le_of_not_lt hge) (hk d List.mem_cons_self)
      · exact hd.1 c hc

theorem Memory.write_wf {m : Memory} (hm : m.wf) (addr : Address) (v : DataByte) :
    (m.write addr v).wf := by
  have hp : (m.filter fun c => c.1 != addr.toNat).Pairwise (fun c d => c.1 < d.1) :=
    hm.1.filter _
  have hc : ∀ c ∈ m.filter (fun c => c.1 != addr.toNat), c.1 < 65536 ∧ c.2 ≠ unlistedByte :=
    fun c h => hm.2 c (List.mem_filter.mp h).1
  simp only [Memory.write]
  split
  · exact ⟨hp, hc⟩
  · rename_i hv
    refine ⟨Memory.pairwise_insert hp fun c h => by simpa using (List.mem_filter.mp h).2, ?_⟩
    intro c h
    rcases Memory.mem_insert.mp h with rfl | h
    · exact ⟨addr.isLt, hv⟩
    · exact hc c h

theorem Memory.writeBytes_wf {m : Memory} (hm : m.wf) (k : Nat) (bytes : List DataByte) :
    (m.writeBytes k bytes).wf := by
  induction bytes generalizing m k with
  | nil => exact hm
  | cons v rest ih =>
    simp only [Memory.writeBytes]
    split
    · exact ih (Memory.write_wf hm _ _) _
    · exact ih hm _

theorem State.reset_mem_wf : State.reset.mem.wf := Memory.nil_wf

end Sys2Proof.Machine
end

