-- ==== Sys2Proof/Laws/State.lean ====
section
/-! SUPPORT. One lemma per field per update of State, each true by rfl, so that no later proof unfolds a
record update. (What `charge` does to BUDGET is `charge_budget` in Laws/Ops.lean.) -/

namespace Sys2Proof.Machine

variable (s : State)

@[simp] theorem State.setPc_pc (v : Address) : (s.setPc v).pc = v := rfl
@[simp] theorem State.setPc_sp (v : Address) : (s.setPc v).sp = s.sp := rfl
@[simp] theorem State.setPc_a (v : Address) : (s.setPc v).a = s.a := rfl
@[simp] theorem State.setPc_x (v : Address) : (s.setPc v).x = s.x := rfl
@[simp] theorem State.setPc_y (v : Address) : (s.setPc v).y = s.y := rfl
@[simp] theorem State.setPc_p (v : Address) : (s.setPc v).p = s.p := rfl
@[simp] theorem State.setPc_budget (v : Address) : (s.setPc v).budget = s.budget := rfl
@[simp] theorem State.setPc_icyc (v : Address) : (s.setPc v).icyc = s.icyc := rfl
@[simp] theorem State.setPc_run (v : Address) : (s.setPc v).run = s.run := rfl
@[simp] theorem State.setPc_cause (v : Address) : (s.setPc v).cause = s.cause := rfl
@[simp] theorem State.setPc_info (v : Address) : (s.setPc v).info = s.info := rfl
@[simp] theorem State.setPc_mem (v : Address) : (s.setPc v).mem = s.mem := rfl
@[simp] theorem State.setPc_bus (v : Address) : (s.setPc v).bus = s.bus := rfl
@[simp] theorem State.setPc_hostMoves (v : Address) : (s.setPc v).hostMoves = s.hostMoves := rfl

@[simp] theorem State.setSp_pc (v : DataByte) : (s.setSp v).pc = s.pc := rfl
@[simp] theorem State.setSp_sp (v : DataByte) : (s.setSp v).sp = v := rfl
@[simp] theorem State.setSp_a (v : DataByte) : (s.setSp v).a = s.a := rfl
@[simp] theorem State.setSp_x (v : DataByte) : (s.setSp v).x = s.x := rfl
@[simp] theorem State.setSp_y (v : DataByte) : (s.setSp v).y = s.y := rfl
@[simp] theorem State.setSp_p (v : DataByte) : (s.setSp v).p = s.p := rfl
@[simp] theorem State.setSp_budget (v : DataByte) : (s.setSp v).budget = s.budget := rfl
@[simp] theorem State.setSp_icyc (v : DataByte) : (s.setSp v).icyc = s.icyc := rfl
@[simp] theorem State.setSp_run (v : DataByte) : (s.setSp v).run = s.run := rfl
@[simp] theorem State.setSp_cause (v : DataByte) : (s.setSp v).cause = s.cause := rfl
@[simp] theorem State.setSp_info (v : DataByte) : (s.setSp v).info = s.info := rfl
@[simp] theorem State.setSp_mem (v : DataByte) : (s.setSp v).mem = s.mem := rfl
@[simp] theorem State.setSp_bus (v : DataByte) : (s.setSp v).bus = s.bus := rfl
@[simp] theorem State.setSp_hostMoves (v : DataByte) : (s.setSp v).hostMoves = s.hostMoves := rfl

@[simp] theorem State.setA_pc (v : DataByte) : (s.setA v).pc = s.pc := rfl
@[simp] theorem State.setA_sp (v : DataByte) : (s.setA v).sp = s.sp := rfl
@[simp] theorem State.setA_a (v : DataByte) : (s.setA v).a = v := rfl
@[simp] theorem State.setA_x (v : DataByte) : (s.setA v).x = s.x := rfl
@[simp] theorem State.setA_y (v : DataByte) : (s.setA v).y = s.y := rfl
@[simp] theorem State.setA_p (v : DataByte) : (s.setA v).p = s.p := rfl
@[simp] theorem State.setA_budget (v : DataByte) : (s.setA v).budget = s.budget := rfl
@[simp] theorem State.setA_icyc (v : DataByte) : (s.setA v).icyc = s.icyc := rfl
@[simp] theorem State.setA_run (v : DataByte) : (s.setA v).run = s.run := rfl
@[simp] theorem State.setA_cause (v : DataByte) : (s.setA v).cause = s.cause := rfl
@[simp] theorem State.setA_info (v : DataByte) : (s.setA v).info = s.info := rfl
@[simp] theorem State.setA_mem (v : DataByte) : (s.setA v).mem = s.mem := rfl
@[simp] theorem State.setA_bus (v : DataByte) : (s.setA v).bus = s.bus := rfl
@[simp] theorem State.setA_hostMoves (v : DataByte) : (s.setA v).hostMoves = s.hostMoves := rfl

@[simp] theorem State.setX_pc (v : DataByte) : (s.setX v).pc = s.pc := rfl
@[simp] theorem State.setX_sp (v : DataByte) : (s.setX v).sp = s.sp := rfl
@[simp] theorem State.setX_a (v : DataByte) : (s.setX v).a = s.a := rfl
@[simp] theorem State.setX_x (v : DataByte) : (s.setX v).x = v := rfl
@[simp] theorem State.setX_y (v : DataByte) : (s.setX v).y = s.y := rfl
@[simp] theorem State.setX_p (v : DataByte) : (s.setX v).p = s.p := rfl
@[simp] theorem State.setX_budget (v : DataByte) : (s.setX v).budget = s.budget := rfl
@[simp] theorem State.setX_icyc (v : DataByte) : (s.setX v).icyc = s.icyc := rfl
@[simp] theorem State.setX_run (v : DataByte) : (s.setX v).run = s.run := rfl
@[simp] theorem State.setX_cause (v : DataByte) : (s.setX v).cause = s.cause := rfl
@[simp] theorem State.setX_info (v : DataByte) : (s.setX v).info = s.info := rfl
@[simp] theorem State.setX_mem (v : DataByte) : (s.setX v).mem = s.mem := rfl
@[simp] theorem State.setX_bus (v : DataByte) : (s.setX v).bus = s.bus := rfl
@[simp] theorem State.setX_hostMoves (v : DataByte) : (s.setX v).hostMoves = s.hostMoves := rfl

@[simp] theorem State.setY_pc (v : DataByte) : (s.setY v).pc = s.pc := rfl
@[simp] theorem State.setY_sp (v : DataByte) : (s.setY v).sp = s.sp := rfl
@[simp] theorem State.setY_a (v : DataByte) : (s.setY v).a = s.a := rfl
@[simp] theorem State.setY_x (v : DataByte) : (s.setY v).x = s.x := rfl
@[simp] theorem State.setY_y (v : DataByte) : (s.setY v).y = v := rfl
@[simp] theorem State.setY_p (v : DataByte) : (s.setY v).p = s.p := rfl
@[simp] theorem State.setY_budget (v : DataByte) : (s.setY v).budget = s.budget := rfl
@[simp] theorem State.setY_icyc (v : DataByte) : (s.setY v).icyc = s.icyc := rfl
@[simp] theorem State.setY_run (v : DataByte) : (s.setY v).run = s.run := rfl
@[simp] theorem State.setY_cause (v : DataByte) : (s.setY v).cause = s.cause := rfl
@[simp] theorem State.setY_info (v : DataByte) : (s.setY v).info = s.info := rfl
@[simp] theorem State.setY_mem (v : DataByte) : (s.setY v).mem = s.mem := rfl
@[simp] theorem State.setY_bus (v : DataByte) : (s.setY v).bus = s.bus := rfl
@[simp] theorem State.setY_hostMoves (v : DataByte) : (s.setY v).hostMoves = s.hostMoves := rfl

@[simp] theorem State.setP_pc (v : Status) : (s.setP v).pc = s.pc := rfl
@[simp] theorem State.setP_sp (v : Status) : (s.setP v).sp = s.sp := rfl
@[simp] theorem State.setP_a (v : Status) : (s.setP v).a = s.a := rfl
@[simp] theorem State.setP_x (v : Status) : (s.setP v).x = s.x := rfl
@[simp] theorem State.setP_y (v : Status) : (s.setP v).y = s.y := rfl
@[simp] theorem State.setP_p (v : Status) : (s.setP v).p = v := rfl
@[simp] theorem State.setP_budget (v : Status) : (s.setP v).budget = s.budget := rfl
@[simp] theorem State.setP_icyc (v : Status) : (s.setP v).icyc = s.icyc := rfl
@[simp] theorem State.setP_run (v : Status) : (s.setP v).run = s.run := rfl
@[simp] theorem State.setP_cause (v : Status) : (s.setP v).cause = s.cause := rfl
@[simp] theorem State.setP_info (v : Status) : (s.setP v).info = s.info := rfl
@[simp] theorem State.setP_mem (v : Status) : (s.setP v).mem = s.mem := rfl
@[simp] theorem State.setP_bus (v : Status) : (s.setP v).bus = s.bus := rfl
@[simp] theorem State.setP_hostMoves (v : Status) : (s.setP v).hostMoves = s.hostMoves := rfl

@[simp] theorem State.setMem_pc (m : Memory) : (s.setMem m).pc = s.pc := rfl
@[simp] theorem State.setMem_sp (m : Memory) : (s.setMem m).sp = s.sp := rfl
@[simp] theorem State.setMem_a (m : Memory) : (s.setMem m).a = s.a := rfl
@[simp] theorem State.setMem_x (m : Memory) : (s.setMem m).x = s.x := rfl
@[simp] theorem State.setMem_y (m : Memory) : (s.setMem m).y = s.y := rfl
@[simp] theorem State.setMem_p (m : Memory) : (s.setMem m).p = s.p := rfl
@[simp] theorem State.setMem_budget (m : Memory) : (s.setMem m).budget = s.budget := rfl
@[simp] theorem State.setMem_icyc (m : Memory) : (s.setMem m).icyc = s.icyc := rfl
@[simp] theorem State.setMem_run (m : Memory) : (s.setMem m).run = s.run := rfl
@[simp] theorem State.setMem_cause (m : Memory) : (s.setMem m).cause = s.cause := rfl
@[simp] theorem State.setMem_info (m : Memory) : (s.setMem m).info = s.info := rfl
@[simp] theorem State.setMem_mem (m : Memory) : (s.setMem m).mem = m := rfl
@[simp] theorem State.setMem_bus (m : Memory) : (s.setMem m).bus = s.bus := rfl
@[simp] theorem State.setMem_hostMoves (m : Memory) : (s.setMem m).hostMoves = s.hostMoves := rfl

@[simp] theorem State.logBus_pc (op : BusOp) : (s.logBus op).pc = s.pc := rfl
@[simp] theorem State.logBus_sp (op : BusOp) : (s.logBus op).sp = s.sp := rfl
@[simp] theorem State.logBus_a (op : BusOp) : (s.logBus op).a = s.a := rfl
@[simp] theorem State.logBus_x (op : BusOp) : (s.logBus op).x = s.x := rfl
@[simp] theorem State.logBus_y (op : BusOp) : (s.logBus op).y = s.y := rfl
@[simp] theorem State.logBus_p (op : BusOp) : (s.logBus op).p = s.p := rfl
@[simp] theorem State.logBus_budget (op : BusOp) : (s.logBus op).budget = s.budget := rfl
@[simp] theorem State.logBus_icyc (op : BusOp) : (s.logBus op).icyc = s.icyc := rfl
@[simp] theorem State.logBus_run (op : BusOp) : (s.logBus op).run = s.run := rfl
@[simp] theorem State.logBus_cause (op : BusOp) : (s.logBus op).cause = s.cause := rfl
@[simp] theorem State.logBus_info (op : BusOp) : (s.logBus op).info = s.info := rfl
@[simp] theorem State.logBus_mem (op : BusOp) : (s.logBus op).mem = s.mem := rfl
@[simp] theorem State.logBus_bus (op : BusOp) : (s.logBus op).bus = s.bus ++ [op] := rfl
@[simp] theorem State.logBus_hostMoves (op : BusOp) : (s.logBus op).hostMoves = s.hostMoves := rfl

@[simp] theorem takeFailure_pc (f : Failure) : (takeFailure f s).pc = s.pc := rfl
@[simp] theorem takeFailure_sp (f : Failure) : (takeFailure f s).sp = s.sp := rfl
@[simp] theorem takeFailure_a (f : Failure) : (takeFailure f s).a = s.a := rfl
@[simp] theorem takeFailure_x (f : Failure) : (takeFailure f s).x = s.x := rfl
@[simp] theorem takeFailure_y (f : Failure) : (takeFailure f s).y = s.y := rfl
@[simp] theorem takeFailure_p (f : Failure) : (takeFailure f s).p = s.p := rfl
@[simp] theorem takeFailure_budget (f : Failure) : (takeFailure f s).budget = s.budget := rfl
@[simp] theorem takeFailure_icyc (f : Failure) : (takeFailure f s).icyc = s.icyc := rfl
@[simp] theorem takeFailure_run (f : Failure) : (takeFailure f s).run = .halted := rfl
@[simp] theorem takeFailure_cause (f : Failure) : (takeFailure f s).cause = f.cause := rfl
@[simp] theorem takeFailure_info (f : Failure) : (takeFailure f s).info = f.info := rfl
@[simp] theorem takeFailure_mem (f : Failure) : (takeFailure f s).mem = s.mem := rfl
@[simp] theorem takeFailure_bus (f : Failure) : (takeFailure f s).bus = s.bus := rfl
@[simp] theorem takeFailure_hostMoves (f : Failure) : (takeFailure f s).hostMoves = s.hostMoves := rfl

@[simp] theorem beginRun_pc (b : Budget) : (beginRun b s).pc = s.pc := rfl
@[simp] theorem beginRun_sp (b : Budget) : (beginRun b s).sp = s.sp := rfl
@[simp] theorem beginRun_a (b : Budget) : (beginRun b s).a = s.a := rfl
@[simp] theorem beginRun_x (b : Budget) : (beginRun b s).x = s.x := rfl
@[simp] theorem beginRun_y (b : Budget) : (beginRun b s).y = s.y := rfl
@[simp] theorem beginRun_p (b : Budget) : (beginRun b s).p = s.p := rfl
@[simp] theorem beginRun_budget (b : Budget) : (beginRun b s).budget = b := rfl
@[simp] theorem beginRun_icyc (b : Budget) : (beginRun b s).icyc = s.icyc := rfl
@[simp] theorem beginRun_run (b : Budget) : (beginRun b s).run = .running := rfl
@[simp] theorem beginRun_cause (b : Budget) : (beginRun b s).cause = .none := rfl
@[simp] theorem beginRun_info (b : Budget) : (beginRun b s).info = 0 := rfl
@[simp] theorem beginRun_mem (b : Budget) : (beginRun b s).mem = s.mem := rfl
@[simp] theorem beginRun_bus (b : Budget) : (beginRun b s).bus = s.bus := rfl
@[simp] theorem beginRun_hostMoves (b : Budget) : (beginRun b s).hostMoves = s.hostMoves := rfl

@[simp] theorem exhausted_pc : (exhausted s).pc = s.pc := rfl
@[simp] theorem exhausted_sp : (exhausted s).sp = s.sp := rfl
@[simp] theorem exhausted_a : (exhausted s).a = s.a := rfl
@[simp] theorem exhausted_x : (exhausted s).x = s.x := rfl
@[simp] theorem exhausted_y : (exhausted s).y = s.y := rfl
@[simp] theorem exhausted_p : (exhausted s).p = s.p := rfl
@[simp] theorem exhausted_budget : (exhausted s).budget = s.budget := rfl
@[simp] theorem exhausted_icyc : (exhausted s).icyc = s.icyc := rfl
@[simp] theorem exhausted_run : (exhausted s).run = .halted := rfl
@[simp] theorem exhausted_cause : (exhausted s).cause = .budgetExhausted := rfl
@[simp] theorem exhausted_info : (exhausted s).info = s.info := rfl
@[simp] theorem exhausted_mem : (exhausted s).mem = s.mem := rfl
@[simp] theorem exhausted_bus : (exhausted s).bus = s.bus := rfl
@[simp] theorem exhausted_hostMoves : (exhausted s).hostMoves = s.hostMoves := rfl

@[simp] theorem beginStep_pc : (beginStep s).pc = s.pc := rfl
@[simp] theorem beginStep_sp : (beginStep s).sp = s.sp := rfl
@[simp] theorem beginStep_a : (beginStep s).a = s.a := rfl
@[simp] theorem beginStep_x : (beginStep s).x = s.x := rfl
@[simp] theorem beginStep_y : (beginStep s).y = s.y := rfl
@[simp] theorem beginStep_p : (beginStep s).p = s.p := rfl
@[simp] theorem beginStep_budget : (beginStep s).budget = s.budget := rfl
@[simp] theorem beginStep_icyc : (beginStep s).icyc = 0 := rfl
@[simp] theorem beginStep_run : (beginStep s).run = s.run := rfl
@[simp] theorem beginStep_cause : (beginStep s).cause = s.cause := rfl
@[simp] theorem beginStep_info : (beginStep s).info = s.info := rfl
@[simp] theorem beginStep_mem : (beginStep s).mem = s.mem := rfl
@[simp] theorem beginStep_bus : (beginStep s).bus = [] := rfl
@[simp] theorem beginStep_hostMoves : (beginStep s).hostMoves = s.hostMoves := rfl

@[simp] theorem charge_pc (n : Nat) : (charge n s).pc = s.pc := rfl
@[simp] theorem charge_sp (n : Nat) : (charge n s).sp = s.sp := rfl
@[simp] theorem charge_a (n : Nat) : (charge n s).a = s.a := rfl
@[simp] theorem charge_x (n : Nat) : (charge n s).x = s.x := rfl
@[simp] theorem charge_y (n : Nat) : (charge n s).y = s.y := rfl
@[simp] theorem charge_p (n : Nat) : (charge n s).p = s.p := rfl
@[simp] theorem charge_icyc (n : Nat) : (charge n s).icyc = s.icyc + BitVec.ofNat 3 n := rfl
@[simp] theorem charge_run (n : Nat) : (charge n s).run = s.run := rfl
@[simp] theorem charge_cause (n : Nat) : (charge n s).cause = s.cause := rfl
@[simp] theorem charge_info (n : Nat) : (charge n s).info = s.info := rfl
@[simp] theorem charge_mem (n : Nat) : (charge n s).mem = s.mem := rfl
@[simp] theorem charge_bus (n : Nat) : (charge n s).bus = s.bus := rfl
@[simp] theorem charge_hostMoves (n : Nat) : (charge n s).hostMoves = s.hostMoves := rfl

end Sys2Proof.Machine
end

