-- ==== Sys2Proof/Laws/Ops.lean ====
section
/-! SUPPORT. Once for each shared operation, everything it can do; later proofs cite these lemmas instead of
unfolding the operations. -/

namespace Sys2Proof.Machine

/-! ## Charging -/

theorem budgetAfter_zero (b : Budget) : budgetAfter b 0 = b := by simp [budgetAfter]

theorem budgetAfter_budgetAfter (b : Budget) (j k : Nat) :
    budgetAfter (budgetAfter b j) k = budgetAfter b (j + k) := by
  have hb := b.isLt
  simp only [budgetAfter, BitVec.toNat_ofNat]
  rw [Nat.mod_eq_of_lt (by omega), Nat.sub_sub]

theorem budgetAfter_toNat (b : Budget) (n : Nat) : (budgetAfter b n).toNat = b.toNat - n := by
  have hb := b.isLt
  simp only [budgetAfter, BitVec.toNat_ofNat]
  exact Nat.mod_eq_of_lt (by omega)

@[simp] theorem charge_budget (s : State) (n : Nat) :
    (charge n s).budget = budgetAfter s.budget n := by
  have hb := s.budget.isLt
  apply BitVec.eq_of_toNat_eq
  rw [budgetAfter_toNat]
  simp only [charge]
  split
  · rename_i h
    rw [BitVec.toNat_sub_of_le]
    · rw [BitVec.toNat_ofNat, Nat.mod_eq_of_lt (by omega)]
    · simp only [BitVec.le_def, BitVec.toNat_ofNat]
      exact Nat.le_trans (Nat.mod_le _ _) h
  · simp; omega

/-! ## Sequencing -/

@[simp] theorem Micro.bind_ok {α β : Type} (v : α) (s : State) (f : α → State → Micro β) :
    (Micro.ok v s).bind f = f v s := rfl

@[simp] theorem Micro.bind_raised {α β : Type} (s : State) (f : α → State → Micro β) :
    (Micro.raised s : Micro α).bind f = .raised s := rfl

@[simp] theorem Micro.finish_ok (s : State) : (Micro.ok () s).finish = .next s := rfl

@[simp] theorem Micro.finish_raised (s : State) : (Micro.raised s : Micro Unit).finish = .next s := rfl

@[simp] theorem raise_eq {α : Type} (f : Failure) (s : State) :
    (raise f s : Micro α) = .raised (takeFailure f s) := rfl

/-- A handler has a next state whether it completes or raises. -/
theorem Micro.finish_next (r : Micro Unit) : ∃ s', r.finish = .next s' := by
  cases r <;> exact ⟨_, rfl⟩

/-! ## Fetch, read, write, push -/

/-- Away from the top of the address space a fetch gives the byte at PC, in the state charged and advanced. -/
theorem fetch8_eq_ok {s : State} (h : s.pc ≠ 0xFFFF) :
    fetch8 s = .ok (s.mem.read s.pc)
      (charge 1 ((s.logBus (.read s.pc (s.mem.read s.pc))).setPc (s.pc + 1))) := by
  simp only [fetch8, nextAddress, if_neg h, portRead]

/-- At the top of the address space a fetch raises, in the state that has only seen the read. -/
theorem fetch8_eq_raised {s : State} (h : s.pc = 0xFFFF) :
    fetch8 s = .raised (takeFailure (.outOfBoundsAddress 0x10000)
      (s.logBus (.read 0xFFFF (s.mem.read 0xFFFF)))) := by
  simp [fetch8, nextAddress, h, portRead]

/-- What a fetch that completes can have done. -/
theorem fetch8_ok_inv {s s' : State} {v : DataByte} (h : fetch8 s = .ok v s') :
    s.pc ≠ 0xFFFF ∧ v = s.mem.read s.pc ∧
      s' = charge 1 ((s.logBus (.read s.pc v)).setPc (s.pc + 1)) := by
  by_cases hpc : s.pc = 0xFFFF
  · simp [fetch8_eq_raised hpc] at h
  · rw [fetch8_eq_ok hpc] at h
    cases h
    exact ⟨hpc, rfl, rfl⟩

theorem read8_eq (addr : Address) (s : State) :
    read8 addr s = (s.mem.read addr, charge 1 (s.logBus (.read addr (s.mem.read addr)))) := rfl

theorem write8_eq (addr : Address) (v : DataByte) (s : State) :
    write8 addr v s = charge 1 ((s.setMem (s.mem.write addr v)).logBus (.write addr v)) := rfl

@[simp] theorem write8_sp (addr : Address) (v : DataByte) (s : State) :
    (write8 addr v s).sp = s.sp := rfl

/-- With room on the stack a push writes the byte and decrements SP. -/
theorem push8_eq_ok {v : DataByte} {s : State} (h : s.sp ≠ 0x00) :
    push8 v s = .ok () ((write8 (stackAddress s.sp) v s).setSp (s.sp - 1)) :=
  if_neg h

/-- With SP = 0x00 a push writes the byte and raises. -/
theorem push8_eq_raised {v : DataByte} {s : State} (h : s.sp = 0x00) :
    push8 v s = .raised (takeFailure .stackOverflow (write8 (stackAddress 0x00) v s)) := by
  simp [push8, h]

/-- What a push that completes can have done. -/
theorem push8_ok_inv {v : DataByte} {s s' : State} (h : push8 v s = .ok () s') :
    s.sp ≠ 0x00 ∧ s' = (write8 (stackAddress s.sp) v s).setSp (s.sp - 1) := by
  by_cases hsp : s.sp = 0x00
  · rw [push8_eq_raised hsp] at h
    cases h
  · rw [push8_eq_ok hsp] at h
    cases h
    exact ⟨hsp, rfl⟩

/-- What an address fetch that completes can have done: two fetches and one charge more. -/
theorem fetchAddr_ok_inv {s s' : State} {t : Address} (h : fetchAddr s = .ok t s') :
    ∃ lo s1 hi s2, fetch8 s = .ok lo s1 ∧ fetch8 s1 = .ok hi s2 ∧ t = concatBytes hi lo ∧
      s' = charge 1 s2 := by
  simp only [fetchAddr] at h
  cases h1 : fetch8 s with
  | raised s1 => simp [h1] at h
  | ok lo s1 =>
    simp only [h1, Micro.bind_ok] at h
    cases h2 : fetch8 s1 with
    | raised s2 => simp [h2] at h
    | ok hi s2 =>
      simp only [h2, Micro.bind_ok] at h
      cases h
      exact ⟨lo, s1, hi, s2, rfl, h2, rfl, rfl⟩

/-- The recompute writes P alone. -/
theorem setZN_eq (v : DataByte) (s : State) :
    setZN v s = s.setP { s.p with z := v == 0x00, n := v.getLsbD 7 } := rfl

/-- The end every LDA shares writes A and P alone. -/
theorem loadA_eq (v : DataByte) (s : State) :
    loadA v s = (s.setA v).setP { s.p with z := v == 0x00, n := v.getLsbD 7 } := rfl

/-! ## The step and the host -/

/-- The state after the first of `k + 1` steps goes on for `k`. -/
theorem core_run_succ {s s' : State} (h : step s = .next s') (k : Nat) :
    core.run (k + 1) s = core.run k s' := by
  simp [Host.Core.run, core, h]

theorem core_run_zero (s : State) : core.run 0 s = .next s := by
  simp [Host.Core.run]

theorem step_exhausted {s : State} (h : s.run = .running) (hb : s.budget = 0) :
    step s = .next (exhausted s) := by
  simp only [step, h, if_pos hb]

theorem hostTurn_nil {s : State} (h : s.hostMoves = []) : hostTurn s = s := by
  simp [hostTurn, h]

theorem hostTurn_cons {s : State} {m : HostMove} {rest : List HostMove}
    (h : s.hostMoves = m :: rest) : hostTurn s = hostAct m { s with hostMoves := rest } := by
  simp [hostTurn, h]

theorem step_running {s : State} (h : s.run = .running) (hb : s.budget ≠ 0) :
    step s = thenLoopTest (engineStep s) := by
  simp only [step, h, if_neg hb]

theorem step_halted {s : State} (h : s.run = .halted) : step s = .next (hostTurn s) := by
  simp [step, h]

theorem loopTest_of_halted {s : State} (h : s.run = .halted) : loopTest s = s := by
  simp [loopTest, h]

theorem loopTest_of_budget {s : State} (h : s.budget ≠ 0) : loopTest s = s := by
  simp only [loopTest, h, and_false, if_false]

@[simp] theorem exec_ldaImm (s : State) : exec .ldaImm s = execLdaImm s := rfl
@[simp] theorem exec_ldaZp (s : State) : exec .ldaZp s = execLdaZp s := rfl
@[simp] theorem exec_ldaZpx (s : State) : exec .ldaZpx s = execLdaZpx s := rfl
@[simp] theorem exec_jsrAbs (s : State) : exec .jsrAbs s = execJsrAbs s := rfl
@[simp] theorem exec_unimplemented (b : DataByte) (s : State) :
    exec (.unimplemented b) s = execUnimplemented b s := rfl

end Sys2Proof.Machine
end

