-- ==== Sys2Proof/Laws/PerInstr.lean ====
section
/-! SUPPORT. Families of statements about instructions as syntax, one lemma per constructor of Instr. -/

namespace Sys2Proof.Laws.AssembledLength

/-- The bytes assembled for an instruction, with an operand of its format, are as many as its length in the
decode table (spec/30_encoding.md R61, R66). -/
def Statement (i : Instr) : Prop :=
  ∀ o : Operand, o.fits i = true → (assemble i o).length = i.length

theorem ldaImm : Statement .ldaImm := by
  intro o h
  cases o <;> first | rfl | cases h

theorem ldaZp : Statement .ldaZp := by
  intro o h
  cases o <;> first | rfl | cases h

theorem ldaZpx : Statement .ldaZpx := by
  intro o h
  cases o <;> first | rfl | cases h

theorem jsrAbs : Statement .jsrAbs := by
  intro o h
  cases o <;> first | rfl | cases h

theorem unimplemented (byte : DataByte) : Statement (.unimplemented byte) := by
  intro o h
  cases o <;> first | rfl | cases h

end Sys2Proof.Laws.AssembledLength
end

