-- ==== Sys2Proof/Tests/Slice0.lean ====
section
/-! SUPPORT. The model's own tests, with expected values from spec/95_test_vectors.md (the vector is named), and
for every statement that has hypotheses a witness that meets them. -/

namespace Sys2Proof.Tests

open Sys2Proof.Machine

/-! ## Helpers -/

/-- A state with a run in progress: budget 10, the given PC and SP, and `bytes` in memory from PC on. -/
def stateAt (pc : Address) (sp : DataByte) (bytes : List DataByte) : State :=
  beginRun 10 { State.reset with pc := pc, sp := sp, mem := Memory.writeBytes [] pc.toNat bytes }

/-- One view of the state an outcome leads to. -/
def after {α : Type} (o : Host.Outcome State Fault Refusal) (f : State → α) : Option α :=
  match o with
  | .next s => some (f s)
  | .fault _ => none
  | .refused _ => none

/-! ## WellFormed: the terms it refuses, one for each known byte (R63) -/

theorem test_wf_refuses_known_bytes :
    (Instr.unimplemented 0xA9).wf = false ∧ (Instr.unimplemented 0xA5).wf = false ∧
    (Instr.unimplemented 0xB5).wf = false ∧ (Instr.unimplemented 0x20).wf = false := by decide

theorem test_wf_accepts :
    Instr.ldaImm.wf = true ∧ (Instr.unimplemented 0x00).wf = true ∧
    (Instr.unimplemented 0xEA).wf = true := by decide

/-! ## Decode: words written out from R61 and R63 -/

theorem test_decode_lda_immediate :
    disassemble [0b10101001, 0b00101010] = .accepted .ldaImm (.byte 0x2A) [] := by decide

theorem test_decode_lda_zero_page :
    disassemble [0b10100101, 0b11111111] = .accepted .ldaZp (.byte 0xFF) [] := by decide

theorem test_decode_lda_zero_page_x :
    disassemble [0b10110101, 0b10000000] = .accepted .ldaZpx (.byte 0x80) [] := by decide

/-- Vector 2.3: bytes `FE 01` give 0x01FE. -/
theorem test_decode_jsr :
    disassemble [0b00100000, 0b11111110, 0b00000001] = .accepted .jsrAbs (.target 0x01FE) [] := by
  decide

theorem test_decode_unimplemented :
    disassemble [0b11101010] = .accepted (.unimplemented 0xEA) .none [] := by decide

/-- Vectors 2.1: neighbours and one-bit variants of the four bytes are unimplemented. -/
theorem test_decode_neighbours :
    [0xA8, 0xAA, 0xA4, 0xA6, 0xAD, 0xB4, 0xB6, 0xB1, 0xBD, 0x35, 0x1F, 0x21, 0x60, 0x4C, 0x22, 0x28,
      0x30, 0xA0, 0xA1, 0xAB, 0xB9, 0xE9, 0x29, 0x89].all
      (fun b : DataByte => decode b == .unimplemented b) = true := by decide

theorem test_rows_do_not_overlap :
    decodeTable.Pairwise (fun r q => r.opcode ≠ q.opcode) := by decide

theorem test_table_word :
    decodeTableWord 8 0xA9 = some .ldaImm ∧ decodeTableWord 16 0x2AA5 = some .ldaZp ∧
    decodeTableWord 24 0x123420 = some .jsrAbs ∧ decodeTableWord 8 0x00 = some (.unimplemented 0x00) := by
  decide

/-! ## Operations -/

/-- Vectors 2.2. -/
theorem test_setZN :
    [(0x00, true, false), (0x01, false, false), (0x7F, false, false), (0x80, false, true),
      (0xFF, false, true)].all
      (fun r : DataByte × Bool × Bool =>
        (setZN r.1 State.reset).p == { Status.clear with z := r.2.1, n := r.2.2 }) = true := by decide

/-- Vectors 2.3. -/
theorem test_indexed_address :
    [(0x2A, 0x01, 0x002B), (0xFF, 0x01, 0x0000), (0x80, 0x80, 0x0000), (0xFF, 0xFF, 0x00FE),
      (0x10, 0xEF, 0x00FF)].all
      (fun r : DataByte × DataByte × Address => zeroPageXAddress r.1 r.2.1 == r.2.2) = true := by decide

/-- Vectors 2.4: budget and ICYC before, after one cycle. -/
theorem test_charge :
    [(5, 0, 4, 1), (1, 3, 0, 4), (0, 4, 0, 5), (0xFFFFFFFF, 0, 0xFFFFFFFE, 1)].all
      (fun r : Budget × CycleCount × Budget × CycleCount =>
        let t := charge 1 { State.reset with budget := r.1, icyc := r.2.1 }
        t.budget == r.2.2.1 && t.icyc == r.2.2.2) = true := by decide

theorem test_memory_canonical :
    Memory.write (Memory.write (Memory.write [] 5 1) 3 2) 5 0 = [(3, 2)] := by decide

/-! ## Instructions, one step each -/

/-- Vector L1: a zero clears N and sets Z. -/
theorem test_lda_immediate_zero :
    after (engineStep { stateAt 0x0200 0xFF [0xA9, 0x00] with a := 0x55, p := { Status.clear with n := true } })
      (fun t => (t.a, t.p.z, t.p.n, t.pc, t.icyc)) = some (0x00, true, false, 0x0202, 2) := by decide

/-- Vector L10: the operand byte at 0xFFFF cannot be fetched. -/
theorem test_lda_immediate_top :
    after (step { stateAt 0xFFFE 0xFF [0xA9, 0x55] with a := 0x11, budget := 2 })
      (fun t => (t.a, t.pc, t.budget, t.icyc, t.cause, t.info)) =
      some (0x11, 0xFFFF, 1, 1, .outOfBoundsAddress, 0x10000) := by decide

/-- Vector S2. -/
theorem test_lda_zero_page :
    after (step { stateAt 0x0200 0xFF [0xA5, 0x2A] with
        mem := Memory.writeBytes [(0x2A, 0x45)] 0x0200 [0xA5, 0x2A], budget := 3 })
      (fun t => (t.a, t.p.z, t.p.n, t.icyc, t.cause)) = some (0x45, false, false, 3, .budgetExhausted) := by
  decide

/-- Vector L5: the cell read is the instruction's own opcode. -/
theorem test_lda_zero_page_own_opcode :
    after (engineStep (stateAt 0x0010 0xFF [0xA5, 0x10]))
      (fun t => (t.a, t.p.n, t.pc)) = some (0xA5, true, 0x0012) := by decide

/-- Vector L6: the sum wraps within page 0. -/
theorem test_lda_zero_page_x_wraps :
    after (engineStep { stateAt 0x0200 0xFF [0xB5, 0xFF] with
        x := 0x01, mem := Memory.writeBytes [(0x0000, 0x80), (0x0100, 0x11)] 0x0200 [0xB5, 0xFF] })
      (fun t => (t.a, t.p.n, t.x, t.icyc)) = some (0x80, true, 0x01, 4) := by decide

/-- Vector L7: X = 0 still costs 4 cycles. -/
theorem test_lda_zero_page_x_unindexed :
    after (engineStep { stateAt 0x0200 0xFF [0xB5, 0x2A] with
        mem := Memory.writeBytes [(0x2A, 0x99)] 0x0200 [0xB5, 0x2A] })
      (fun t => (t.a, t.icyc)) = some (0x99, 4) := by decide

/-- Vector S4 from 0x0600. -/
theorem test_jsr :
    after (engineStep (stateAt 0x0600 0xFF [0x20, 0x34, 0x12]))
      (fun t => (t.pc, t.sp, t.mem.read 0x01FF, t.mem.read 0x01FE, t.icyc)) =
      some (0x1234, 0xFD, 0x06, 0x02, 6) := by decide

/-- Vector J4: a push at SP = 0x00 writes and fails, and SP does not wrap. -/
theorem test_jsr_stack_overflow :
    after (step { stateAt 0x0200 0x00 [0x20, 0x00, 0x03] with budget := 6 })
      (fun t => ((t.pc, t.sp, t.mem.read 0x0100, t.mem.read 0x01FF), t.budget, t.icyc, t.cause)) =
      some ((0x0203, 0x00, 0x02, 0x00), 1, 5, .stackOverflow) := by decide

/-- Vector U1. -/
theorem test_unimplemented :
    after (step (stateAt 0x0200 0xFF [0xEA]))
      (fun t => (t.pc, t.budget, t.icyc, t.run, t.cause, t.info)) =
      some (0x0201, 9, 1, .halted, .unimplementedOpcode, 0x000EA) := by decide

/-- Vector U3: the failure is the cause although the budget is spent. -/
theorem test_unimplemented_beats_budget :
    after (step { stateAt 0x0200 0xFF [0xEA] with budget := 1 }) (fun t => (t.budget, t.cause)) =
      some (0, .unimplementedOpcode) := by decide

/-! ## The run and the host -/

/-- Vector L8: an overdrawn instruction completes. -/
theorem test_overdraw_completes :
    after (step { stateAt 0x0200 0xFF [0xA9, 0x07] with budget := 1 })
      (fun t => (t.a, t.pc, t.budget, t.icyc, t.cause)) = some (0x07, 0x0202, 0, 2, .budgetExhausted) := by
  decide

/-- Vector U5: a run with no budget performs no step. -/
theorem test_execute_zero :
    after (step { State.reset with icyc := 5, hostMoves := [.start 0] })
      (fun t => (t.run, t.cause, t.budget, t.icyc, t.pc)) =
      some (.halted, .budgetExhausted, 0, 5, State.reset.pc) := by decide

theorem test_start_runs :
    after (step { State.reset with hostMoves := [.start 6] }) (fun t => (t.run, t.cause, t.budget)) =
      some (.running, .none, 6) := by decide

theorem test_fetch_word_runs_first :
    after (step (State.reset.withFetchWord 16 0x2AA9)) (fun t => (t.a, t.pc)) = some (0x2A, 0x0002) := by
  decide

theorem test_host_writes_packed_status :
    after (step { State.reset with hostMoves := [.writeStatus 0xA3] })
      (fun t => (t.p.c, t.p.z, t.p.i, t.p.n, packStatus t.p)) = some (true, true, false, true, 0x83) := by
  decide

/-! ## Witnesses: states and operands that meet each statement's hypotheses -/

/-- LDA Immediate whose last byte is the last that can be fetched. -/
def immLow : State := stateAt 0xFFFD 0xFF [0xA9, 0x80]
/-- LDA Immediate whose operand byte is at 0xFFFF. -/
def immHigh : State := stateAt 0xFFFE 0xFF [0xA9, 0x80]
/-- An opcode at 0xFFFF. -/
def immTop : State := stateAt 0xFFFF 0xFF [0xA9]
def zpLow : State := stateAt 0xFFFD 0xFF [0xA5, 0xFF]
def zpHigh : State := stateAt 0xFFFE 0xFF [0xA5, 0xFF]
def zpTop : State := stateAt 0xFFFF 0xFF [0xA5]
def zpxLow : State := { stateAt 0xFFFD 0xFF [0xB5, 0xFF] with x := 0x01 }
def zpxHigh : State := stateAt 0xFFFE 0xFF [0xB5, 0xFF]
def zpxTop : State := stateAt 0xFFFF 0xFF [0xB5]
/-- JSR at the highest address and the lowest SP at which it completes. -/
def jsrLow : State := stateAt 0xFFFC 0x02 [0x20, 0x00, 0x03]
def unimpl : State := stateAt 0xFFFE 0xFF [0xEA]
/-- A JSR to the stack cell that takes its return address's low byte (vector P4). -/
def jsrToStack : State := stateAt 0x2AA7 0xFF [0x20, 0xFE, 0x01]

/-- A JSR to the stack cell that takes its return address's high byte, worked by hand. -/
def jsrToStackHigh : State := stateAt 0xA500 0xFF [0x20, 0xFF, 0x01]

theorem witness_DecodeTableIsTotal :
    0xEA ∉ knownOpcodes ∧ unimpl.mem.read unimpl.pc = 0xEA ∧ unimpl.pc ≠ 0xFFFF := by decide

theorem witness_DisassembleInvertsAssemble :
    (Instr.jsrAbs.wf = true ∧ (Operand.target 0x1234).fits .jsrAbs = true) ∧
    ((Instr.unimplemented 0xFF).wf = true ∧ Operand.none.fits (.unimplemented 0xFF) = true) ∧
    disassemble [0xA5, 0xFF, 0x00] = .accepted .ldaZp (.byte 0xFF) [0x00] := by decide

theorem witness_EncodeInvertsDecode :
    Instr.jsrAbs.wf = true ∧ (Instr.unimplemented 0x00).wf = true := by decide

theorem witness_OperandsAreAssembled : (stateAt 0xFFFE 0xFF [0x80]).pc ≠ 0xFFFF := by decide

/-- A handler's entry at the last operand address a one-byte fetch can take. -/
theorem witness_LdaImmediateCompletes : (stateAt 0xFFFE 0xFF [0x80]).pc ≠ 0xFFFF := by decide

theorem witness_LdaZeroPageCompletes : (stateAt 0xFFFE 0xFF [0xFF]).pc ≠ 0xFFFF := by decide

theorem witness_LdaZeroPageXCompletes : (stateAt 0xFFFE 0xFF [0x80]).pc ≠ 0xFFFF := by decide

theorem witness_JsrCompletes :
    (stateAt 0xFFFD 0x02 [0x34, 0x12]).pc ≤ 0xFFFD ∧ 2 ≤ (stateAt 0xFFFD 0x02 [0x34, 0x12]).sp := by
  decide

theorem witness_MemoryPrimitives : (0x0100 : Address) ≠ 0x0101 := by decide

theorem witness_DataAccessIsCharged : (0x0100 : Address) ≠ 0x0101 := by decide

theorem witness_CanonicalMemoryIsItsCells :
    Memory.wf [(3, 1), (65535, 2)] ∧
    ∀ addr : Address, Memory.read [(3, 1), (65535, 2)] addr = Memory.read [(3, 1), (65535, 2)] addr :=
  ⟨by decide, fun _ => rfl⟩

theorem witness_MemoryPortInProgramOrder :
    (∃ s', engineStep immLow = .next s') ∧ (∃ s', engineStep zpLow = .next s') ∧
    (∃ s', engineStep zpxLow = .next s') ∧ (∃ s', engineStep jsrLow = .next s') ∧
    ∃ s', engineStep unimpl = .next s' :=
  ⟨⟨_, rfl⟩, ⟨_, rfl⟩, ⟨_, rfl⟩, ⟨_, rfl⟩, ⟨_, rfl⟩⟩

theorem witness_BudgetNeverCutsAStep :
    ∃ s', engineStep jsrLow = .next s' ∧ jsrLow.budget ≠ 1 := ⟨_, rfl, by decide⟩

theorem witness_ReachOfInstructions :
    (zpLow.mem.read zpLow.pc = 0xA5 ∧ zpLow.pc ≤ 0xFFFD) ∧
    (zpxLow.mem.read zpxLow.pc = 0xB5 ∧ zpxLow.pc ≤ 0xFFFD) ∧
    (jsrLow.mem.read jsrLow.pc = 0x20 ∧ jsrLow.pc ≤ 0xFFFC ∧ 2 ≤ jsrLow.sp) ∧
    after (engineStep jsrLow) (fun t => decide (BusOp.write 0x0102 0xFF ∈ t.bus)) = some true := by decide

theorem witness_FetchByteAdvancesOrFails : immHigh.pc ≠ 0xFFFF ∧ immTop.pc = 0xFFFF := by decide

theorem witness_FetchAddressLittleEndian :
    immLow.pc ≤ 0xFFFD ∧ immHigh.pc = 0xFFFE ∧ immTop.pc = 0xFFFF := by decide

theorem witness_PushWritesThenDecrements :
    (stateAt 0x0200 0x01 []).sp ≠ 0x00 ∧ (stateAt 0x0200 0x00 []).sp = 0x00 := by decide

theorem witness_LdaFrame :
    after (exec .ldaImm immHigh) (fun _ => ()) = some () ∧
    after (exec .ldaZp immTop) (fun _ => ()) = some () ∧
    after (exec .ldaZpx immHigh) (fun _ => ()) = some () ∧ immHigh.pc ≠ 0xFFFF ∧ immTop.pc = 0xFFFF := by
  decide

theorem witness_JsrFrame :
    after (exec .jsrAbs immHigh) (fun _ => ()) = some () ∧ 0xFFFD < immHigh.pc ∧
    after (exec .jsrAbs { jsrLow with pc := 0xFFFD }) (fun t => decide (t.run = .running)) = some true ∧
    (0x0103 : Address) ≠ stackAddress 0x02 ∧ (0x0103 : Address) ≠ stackAddress (0x02 - 1) := by decide

theorem witness_UnimplementedFrame :
    after (exec (.unimplemented 0xEA) immLow) (fun _ => ()) = some () := by decide

theorem witness_StepRunsDecodedInstruction :
    immLow.pc ≠ 0xFFFF ∧ immLow.run = .running ∧ immLow.budget ≠ 0 := by decide

theorem witness_LdaImmediateStep :
    (immLow.mem.read immLow.pc = 0xA9 ∧ immLow.pc ≤ 0xFFFD) ∧
    (immHigh.mem.read immHigh.pc = 0xA9 ∧ immHigh.pc = 0xFFFE) ∧
    (immTop.mem.read immTop.pc = 0xA9 ∧ immTop.pc = 0xFFFF) := by decide

theorem witness_LdaZeroPageStep :
    (zpLow.mem.read zpLow.pc = 0xA5 ∧ zpLow.pc ≤ 0xFFFD) ∧
    (zpHigh.mem.read zpHigh.pc = 0xA5 ∧ zpHigh.pc = 0xFFFE) ∧
    (zpTop.mem.read zpTop.pc = 0xA5 ∧ zpTop.pc = 0xFFFF) := by decide

theorem witness_LdaZeroPageXStep :
    (zpxLow.mem.read zpxLow.pc = 0xB5 ∧ zpxLow.pc ≤ 0xFFFD) ∧
    (zpxHigh.mem.read zpxHigh.pc = 0xB5 ∧ zpxHigh.pc = 0xFFFE) ∧
    (zpxTop.mem.read zpxTop.pc = 0xB5 ∧ zpxTop.pc = 0xFFFF) := by decide

theorem witness_LdaLoadsTheByteRead :
    ((decode (zpLow.mem.read zpLow.pc)).kind = .lda ∧ zpLow.pc ≤ 0xFFFD ∧
      after (engineStep zpLow) (fun _ => ()) = some ()) ∧
    ((decode (zpHigh.mem.read zpHigh.pc)).kind = .lda ∧ 0xFFFD < zpHigh.pc ∧
      after (engineStep zpHigh) (fun _ => ()) = some ()) := by decide

theorem witness_JsrStepTable :
    [(0xFFFF, 0x02), (0xFFFE, 0x02), (0xFFFD, 0x02), (0xFFFC, 0x00), (0xFFFC, 0x01), (0xFFFC, 0x02)].all
      (fun r : Address × DataByte =>
        let s := stateAt r.1 r.2 [0x20, 0x00, 0x03]
        s.mem.read s.pc == 0x20 && s.pc == r.1 && s.sp == r.2) = true ∧ (2 : DataByte) ≤ 0x02 := by
  decide

theorem witness_JsrPushesLastByteAddress :
    jsrLow.mem.read jsrLow.pc = 0x20 ∧ jsrLow.pc ≤ 0xFFFC ∧ 2 ≤ jsrLow.sp := by decide

theorem witness_UnimplementedStep :
    (unimpl.mem.read unimpl.pc ∉ knownOpcodes ∧ unimpl.pc ≠ 0xFFFF ∧ unimpl.run = .running ∧
      unimpl.budget ≠ 0) ∧
    ((stateAt 0xFFFF 0xFF [0xEA]).mem.read 0xFFFF ∉ knownOpcodes ∧ (stateAt 0xFFFF 0xFF [0xEA]).pc = 0xFFFF) := by
  decide

theorem witness_StepConsumesItsBytes :
    Instr.jsrAbs.wf = true ∧ (Operand.target 0x0300).fits .jsrAbs = true ∧
    jsrLow.pc.toNat + Instr.jsrAbs.length ≤ 0xFFFF ∧ 2 ≤ jsrLow.sp ∧
    ∀ k, k < Instr.jsrAbs.length →
      some (jsrLow.mem.read (jsrLow.pc + BitVec.ofNat 16 k)) = (assemble .jsrAbs (.target 0x0300))[k]? := by
  decide

theorem witness_CompletedStepCyclesAreTable :
    jsrLow.run = .running ∧
    after (engineStep jsrLow) (fun t => decide (t.run = .running)) = some true := by decide

theorem witness_AccessesAreChargedOnce :
    (stateAt 0xFFFC 0x02 [0xB5, 0xFF]).pc ≤ 0xFFFC ∧ 2 ≤ (stateAt 0xFFFC 0x02 [0xB5, 0xFF]).sp ∧
    after (engineStep (stateAt 0xFFFC 0x02 [0xB5, 0xFF])) (fun _ => ()) = some () := by decide

theorem witness_AccumulatorAndIndexAccess :
    after (engineStep immLow) (fun t => decide (t.a ≠ immLow.a)) = some true ∧
    after (step immLow) (fun t => decide (t.a ≠ immLow.a)) = some true ∧
    after (step { State.reset with hostMoves := [.writeA 0x01] })
      (fun t => decide (t.a ≠ State.reset.a)) = some true ∧
    (zpxLow.mem.read zpxLow.pc = 0xB5 ∧ zpxLow.pc ≤ 0xFFFD) ∧
    after (step { State.reset with hostMoves := [.writeX 0x01] })
      (fun t => decide (t.x ≠ State.reset.x)) = some true ∧
    after (step { State.reset with hostMoves := [.writeY 0x01] })
      (fun t => decide (t.y ≠ State.reset.y)) = some true ∧
    immLow.mem.read immLow.pc ≠ 0xB5 := by decide

theorem witness_ZeroAndNegativeWrites :
    ((decode (zpLow.mem.read zpLow.pc)).kind = .lda ∧ zpLow.pc ≤ 0xFFFD) ∧
    ¬ ((decode (zpHigh.mem.read zpHigh.pc)).kind = .lda ∧ zpHigh.pc ≤ 0xFFFD) ∧
    after (engineStep zpHigh) (fun _ => ()) = some () ∧
    after (step (stateAt 0xFFFD 0xFF [0xA9, 0x00]))
      (fun t => decide (t.p.z ≠ (stateAt 0xFFFD 0xFF [0xA9, 0x00]).p.z)) = some true ∧
    after (step { State.reset with hostMoves := [.writeFlag .z true] })
      (fun t => decide (t.p.z ≠ State.reset.p.z)) = some true ∧
    after (step { State.reset with hostMoves := [.writeStatus 0x80] })
      (fun t => decide (t.p.n ≠ State.reset.p.n)) = some true := by decide

theorem witness_StorageFlagsAreInert :
    after (engineStep jsrLow) (fun _ => ()) = some () ∧
    after (step { State.reset with hostMoves := [.writeFlag .d true] })
      (fun t => decide (t.p.d ≠ State.reset.p.d)) = some true := by decide

theorem witness_BudgetCountsDown :
    (State.reset.run = .halted ∧
      ({ State.reset with hostMoves := [.start 6] } : State).hostMoves = [HostMove.start 6]) ∧
    (jsrLow.run = .running ∧ jsrLow.budget ≠ 0 ∧ after (step jsrLow) (fun _ => ()) = some ()) ∧
    ((beginRun 0 State.reset).run = .running ∧ (beginRun 0 State.reset).budget = 0) := by decide

theorem witness_FailureEntryAndCodes :
    (∃ f, f = Failure.outOfBoundsAddress 0x10000) ∧ (∃ f, f = Failure.stackOverflow) ∧
    (∃ f, f = Failure.stackUnderflow) ∧ ∃ f, f = Failure.unimplementedOpcode 0xEA :=
  ⟨⟨_, rfl⟩, ⟨_, rfl⟩, ⟨_, rfl⟩, ⟨_, rfl⟩⟩

theorem witness_StackOverflowOnlyByJsr :
    (stateAt 0x0200 0x01 [0x20, 0x00, 0x03]).cause = .none ∧
    after (engineStep (stateAt 0x0200 0x01 [0x20, 0x00, 0x03])) (fun t => t.cause) = some .stackOverflow := by
  decide

theorem witness_UnimplementedOpcodeRecorded :
    unimpl.cause = .none ∧ after (engineStep unimpl) (fun t => t.cause) = some .unimplementedOpcode := by
  decide

theorem witness_HaltCauseOfAStep :
    (immHigh.run = .running ∧ immHigh.budget ≠ 0 ∧ immHigh.cause = .none ∧
      after (step immHigh) (fun t => t.cause) = some .outOfBoundsAddress) ∧
    (({ immLow with budget := 2 } : State).run = .running ∧
      after (step { immLow with budget := 2 }) (fun t => t.cause) = some .budgetExhausted) ∧
    after (step { immLow with budget := 3 }) (fun t => t.cause) = some .none := by decide

theorem witness_RunStateMachine :
    State.reset.run = .halted ∧ (1 : Budget) ≠ 0 ∧ jsrLow.run = .running ∧ jsrLow.budget ≠ 0 ∧
    after (engineStep jsrLow) (fun t => decide (t.run = .running ∧ t.budget ≠ 0)) = some true ∧
    after (engineStep { jsrLow with budget := 6 })
      (fun t => decide (t.run = .running ∧ t.budget = 0)) = some true ∧
    after (engineStep unimpl) (fun t => decide (t.run = .halted)) = some true := by decide

theorem witness_HaltedUntilStarted :
    (State.reset.run = .halted ∧ State.reset.hostMoves = []) ∧
    after (step { State.reset with hostMoves := [.start 1] })
      (fun t => decide (t.run = .running)) = some true := by decide

theorem witness_FirstFetchAtResetAddress :
    (1 : Budget) ≠ 0 ∧ ({ Config.suggested with resetAddress := 0xFFFF } : Config).resetAddress = 0xFFFF := by
  decide

theorem witness_HostWritesAndReadsWhileHalted :
    [HostMove.construct Config.suggested, .initMemory, .writeMem 0xFFFF 0x01, .writePc 0xFFFF, .writeSp 0x00,
      .writeA 0x80, .writeX 0x01, .writeY 0x01, .writeFlag .d true, .writeStatus 0xFF, .start 1, .start 0].all
      (fun m =>
        let s : State := { State.reset with hostMoves := [m] }
        s.run == .halted && s.hostMoves == [m]) = true ∧
    (1 : Budget) ≠ 0 ∧ (0x0000 : Address) ≠ 0xFFFF ∧ Flag.c ≠ .d ∧ jsrLow.run = .running := by decide

theorem witness_LoaderFillsMemory :
    0xFFFE + [(0xA9 : DataByte), 0x2A].length ≤ 65536 ∧ State.reset.run = .halted ∧
    ({ State.reset with hostMoves := loadMoves 0xFFFE [0xA9, 0x2A] ++ [.start 2] } : State).hostMoves =
      loadMoves 0xFFFE [0xA9, 0x2A] ++ [.start 2] := by decide

theorem witness_HostHasNoMoveWhileRunning :
    jsrLow.run = .running ∧ after (step jsrLow) (fun _ => ()) = some () := by decide

theorem witness_FetchWordIsRunNext : State.reset.pc ≤ 0xFFFC ∧ 8 ≤ 24 := by decide

theorem witness_StepKeepsInvariant :
    State.Inv immLow ∧ after (step immLow) (fun _ => ()) = some () ∧ State.Inv State.reset := by decide

theorem witness_ConstructionMeetsInvariant : Memory.wf [(0x0200, 0xA9), (0xFFFF, 0x01)] := by decide

theorem witness_PushedByteIsFetchedNext :
    [(jsrToStack, 0x01FE, 0xA9), (jsrToStackHigh, 0x01FF, 0xA5)].all
      (fun r : State × Address × DataByte =>
        r.1.mem.read r.1.pc == 0x20 && decide (r.1.pc ≤ 0xFFFC) && decide (2 ≤ r.1.sp) &&
        concatBytes (r.1.mem.read (r.1.pc + 2)) (r.1.mem.read (r.1.pc + 1)) == r.2.1) = true ∧
    stackAddress (jsrToStack.sp - 1) = 0x01FE ∧ lowByte (jsrToStack.pc + 2) = 0xA9 ∧
    stackAddress jsrToStackHigh.sp = 0x01FF ∧ highByte (jsrToStackHigh.pc + 2) = 0xA5 := by decide

theorem witness_ExecuteIsIteratedStep :
    State.reset.run = .halted ∧ (3 : Budget).toNat + 1 ≤ 4 ∧
    ({ State.reset with hostMoves := [.start 3] } : State).hostMoves = [HostMove.start 3] := by decide

theorem witness_BudgetDecidesHowManySteps :
    immLow.run = .running ∧ immLow.budget ≠ 0 ∧ immLow.hostMoves = [] ∧
    (completedSteps 1 immLow).map (fun r => (r.1.pc, r.2)) = some (0xFFFF, 2) := by decide

theorem witness_SplitRunEqualsSingleRun :
    (2 : Budget).toNat + (1 : Budget).toNat + 5 < 2 ^ 32 ∧
    after (execute 2 immLow) (fun t => t.cause) = some .budgetExhausted ∧
    after (execute 2 immLow) (fun t => after (execute 1 t) (fun u => u.cause)) =
      some (some .outOfBoundsAddress) := by decide

end Sys2Proof.Tests
end

section
/-! The decoder and the instruction values: `decode` and `encode` are inverse to one another on the well-formed
instructions (spec/30_encoding.md R63, R67), and the length and kind of each instruction. -/

namespace Sys2Proof

theorem mem_knownOpcodes_iff {b : DataByte} :
    b ∈ knownOpcodes ↔ b = 0xA9 ∨ b = 0xA5 ∨ b = 0xB5 ∨ b = 0x20 := by
  simp [knownOpcodes]

theorem Instr.wf_unimplemented_iff {b : DataByte} :
    (Instr.unimplemented b).wf = true ↔ b ∉ knownOpcodes := by
  simp [Instr.wf]

/-- No row of the table matches a byte outside the known set (R65). -/
theorem decode_of_not_known {b : DataByte} (h : b ∉ knownOpcodes) : decode b = .unimplemented b := by
  have hnone : decodeTable.find? (fun r => r.opcode == b) = none := by
    rw [List.find?_eq_none]
    intro r hr hopcode
    have hknown : ∀ r ∈ decodeTable, r.opcode ∈ knownOpcodes := by decide
    exact h (eq_of_beq hopcode ▸ hknown r hr)
  rw [decode, hnone]

@[simp] theorem encode_decode (b : DataByte) : encode (decode b) = b := by
  by_cases h : b ∈ knownOpcodes
  · obtain rfl | rfl | rfl | rfl := mem_knownOpcodes_iff.mp h <;> rfl
  · rw [decode_of_not_known h, encode]

@[simp] theorem decode_wf (b : DataByte) : (decode b).wf = true := by
  by_cases h : b ∈ knownOpcodes
  · obtain rfl | rfl | rfl | rfl := mem_knownOpcodes_iff.mp h <;> rfl
  · rw [decode_of_not_known h, Instr.wf_unimplemented_iff]
    exact h

theorem decode_encode {i : Instr} (h : i.wf = true) : decode (encode i) = i := by
  cases i with
  | ldaImm | ldaZp | ldaZpx | jsrAbs => rfl
  | unimplemented b => exact decode_of_not_known (Instr.wf_unimplemented_iff.mp h)

/-- A byte decodes to the one well-formed instruction it encodes. -/
theorem decode_eq_iff {b : DataByte} {i : Instr} : decode b = i ↔ i.wf = true ∧ b = encode i := by
  constructor
  · rintro rfl
    simp
  · rintro ⟨hwf, rfl⟩
    exact decode_encode hwf

theorem decode_eq_ldaZpx_iff {b : DataByte} : decode b = .ldaZpx ↔ b = 0xB5 := by
  simp [decode_eq_iff, Instr.wf, encode]

@[simp] theorem Instr.length_ldaImm : Instr.ldaImm.length = 2 := rfl
@[simp] theorem Instr.length_ldaZp : Instr.ldaZp.length = 2 := rfl
@[simp] theorem Instr.length_ldaZpx : Instr.ldaZpx.length = 2 := rfl
@[simp] theorem Instr.length_jsrAbs : Instr.jsrAbs.length = 3 := rfl
@[simp] theorem Instr.length_unimplemented (b : DataByte) : (Instr.unimplemented b).length = 1 := rfl

@[simp] theorem Instr.kind_ldaImm : Instr.ldaImm.kind = .lda := rfl
@[simp] theorem Instr.kind_ldaZp : Instr.ldaZp.kind = .lda := rfl
@[simp] theorem Instr.kind_ldaZpx : Instr.ldaZpx.kind = .lda := rfl
@[simp] theorem Instr.kind_jsrAbs : Instr.jsrAbs.kind = .jsr := rfl
@[simp] theorem Instr.kind_unimplemented (b : DataByte) :
    (Instr.unimplemented b).kind = .unimplemented := rfl

theorem Instr.length_pos (i : Instr) : 0 < i.length := by
  cases i <;> simp

theorem Instr.length_le (i : Instr) : i.length ≤ 3 := by
  cases i <;> simp

theorem Instr.length_of_kind_lda {i : Instr} (h : i.kind = .lda) : i.length = 2 := by
  cases i <;> simp_all

theorem concatBytes_highByte_lowByte (a : Address) : concatBytes (highByte a) (lowByte a) = a := by
  ext k hk
  rw [← BitVec.getLsbD_eq_getElem hk, ← BitVec.getLsbD_eq_getElem hk]
  by_cases h : k < 8
  · simp [concatBytes, highByte, lowByte, h, hk]
  · have hhigh : k - 8 < 8 := by omega
    simp [concatBytes, highByte, lowByte, h, hk, hhigh, Nat.add_sub_cancel' (Nat.le_of_not_lt h)]

end Sys2Proof
end

section
/-! One step of the engine, row by row (spec/41_lda.md R100 to R102, spec/42_jsr.md R112, spec/43_unimplemented.md
R120): which states `engineStep` can end in. Later proofs go by these rows and do not unfold the handlers. -/

namespace Sys2Proof.Machine

theorem charge_eq (n : Nat) (s : State) :
    charge n s = { s with icyc := s.icyc + BitVec.ofNat 3 n, budget := budgetAfter s.budget n } := by
  rw [← charge_budget]
  rfl

/-! ## The fetches of a step -/

theorem fetches_succ_last (m : Memory) (addr : Address) (n : Nat) :
    fetches m addr (n + 1) =
      fetches m addr n ++ [.read (addr + BitVec.ofNat 16 n) (m.read (addr + BitVec.ofNat 16 n))] := by
  induction n generalizing addr with
  | zero => simp [fetches]
  | succ n ih =>
    have hadd : addr + 1 + BitVec.ofNat 16 n = addr + BitVec.ofNat 16 (n + 1) := by
      rw [BitVec.ofNat_add, BitVec.add_comm (BitVec.ofNat 16 n), ← BitVec.add_assoc]
      rfl
    rw [fetches, ih, hadd]
    rfl

@[simp] theorem fetches_length (m : Memory) (addr : Address) (n : Nat) : (fetches m addr n).length = n := by
  induction n generalizing addr with
  | zero => rfl
  | succ n ih => simp [fetches, ih]

@[simp] theorem take_fetches (m : Memory) (addr : Address) (n : Nat) :
    (fetches m addr n).take n = fetches m addr n :=
  List.take_of_length_le (Nat.le_of_eq (fetches_length m addr n))

@[simp] theorem take_fetches_append (m : Memory) (addr : Address) (n : Nat) (ops : List BusOp) :
    (fetches m addr n ++ ops).take n = fetches m addr n :=
  List.take_left' (fetches_length m addr n)

/-- `s` after a step's first `k` fetches, each of them charged. -/
def State.fetched (k : Nat) (s : State) : State :=
  { s with
    pc := s.pc + BitVec.ofNat 16 k, icyc := BitVec.ofNat 3 k, budget := budgetAfter s.budget k,
    bus := fetches s.mem s.pc k }

@[simp] theorem State.fetched_pc (k : Nat) (s : State) : (s.fetched k).pc = s.pc + BitVec.ofNat 16 k := rfl
@[simp] theorem State.fetched_sp (k : Nat) (s : State) : (s.fetched k).sp = s.sp := rfl
@[simp] theorem State.fetched_a (k : Nat) (s : State) : (s.fetched k).a = s.a := rfl
@[simp] theorem State.fetched_x (k : Nat) (s : State) : (s.fetched k).x = s.x := rfl
@[simp] theorem State.fetched_y (k : Nat) (s : State) : (s.fetched k).y = s.y := rfl
@[simp] theorem State.fetched_p (k : Nat) (s : State) : (s.fetched k).p = s.p := rfl
@[simp] theorem State.fetched_budget (k : Nat) (s : State) : (s.fetched k).budget = budgetAfter s.budget k := rfl
@[simp] theorem State.fetched_icyc (k : Nat) (s : State) : (s.fetched k).icyc = BitVec.ofNat 3 k := rfl
@[simp] theorem State.fetched_run (k : Nat) (s : State) : (s.fetched k).run = s.run := rfl
@[simp] theorem State.fetched_cause (k : Nat) (s : State) : (s.fetched k).cause = s.cause := rfl
@[simp] theorem State.fetched_info (k : Nat) (s : State) : (s.fetched k).info = s.info := rfl
@[simp] theorem State.fetched_mem (k : Nat) (s : State) : (s.fetched k).mem = s.mem := rfl
@[simp] theorem State.fetched_bus (k : Nat) (s : State) : (s.fetched k).bus = fetches s.mem s.pc k := rfl
@[simp] theorem State.fetched_hostMoves (k : Nat) (s : State) : (s.fetched k).hostMoves = s.hostMoves := rfl

/-- What the fetch of byte `k` of an instruction leaves when it fails at the top of the address space: the read is
made, and nothing is charged for it (D3, D25). -/
def State.fetchFailed (k : Nat) (s : State) : State :=
  { s.fetched k with
    run := .halted, cause := .outOfBoundsAddress, info := 0x10000, bus := fetches s.mem s.pc (k + 1) }

@[simp] theorem State.fetchFailed_budget (k : Nat) (s : State) :
    (s.fetchFailed k).budget = budgetAfter s.budget k := rfl
@[simp] theorem State.fetchFailed_icyc (k : Nat) (s : State) : (s.fetchFailed k).icyc = BitVec.ofNat 3 k := rfl

theorem State.fetched_zero (s : State) : s.fetched 0 = beginStep s := by
  simp [fetched, beginStep, fetches, budgetAfter_zero]

theorem fetch8_fetched_of_lt {k : Nat} {s : State} (h : s.pc.toNat + k < 0xFFFF) :
    fetch8 (s.fetched k) = .ok (s.mem.read (s.pc + BitVec.ofNat 16 k)) (s.fetched (k + 1)) := by
  have hpc : (s.fetched k).pc ≠ 0xFFFF := by
    simp only [State.fetched]
    bv_omega
  rw [fetch8_eq_ok hpc, charge_eq]
  simp [State.fetched, fetches_succ_last, budgetAfter_budgetAfter, BitVec.ofNat_add, BitVec.add_assoc,
    State.logBus, State.setPc]

theorem fetch8_fetched_of_eq {k : Nat} {s : State} (h : s.pc.toNat + k = 0xFFFF) :
    fetch8 (s.fetched k) = .raised (s.fetchFailed k) := by
  have hpc : s.pc + BitVec.ofNat 16 k = 0xFFFF := by bv_omega
  rw [fetch8_eq_raised hpc]
  simp [State.fetched, State.fetchFailed, fetches_succ_last, takeFailure, State.logBus, hpc,
    Failure.cause, Failure.info]

/-- The opcode fetch is followed by the handler of the decoded byte. -/
theorem engineStep_of_lt {s : State} (h : s.pc.toNat < 0xFFFF) :
    engineStep s = exec (decode (s.mem.read s.pc)) (s.fetched 1) := by
  have hfetch := fetch8_fetched_of_lt (k := 0) h
  rw [State.fetched_zero] at hfetch
  simp [engineStep, fetchOpcode, hfetch]

theorem engineStep_of_eq {s : State} (h : s.pc.toNat = 0xFFFF) :
    engineStep s = .next (s.fetchFailed 0) := by
  have hfetch := fetch8_fetched_of_eq (k := 0) h
  rw [State.fetched_zero] at hfetch
  simp only [engineStep, fetchOpcode, hfetch]

/-! ## The handlers -/

theorem stackAddress_one : stackAddress 1#8 = 0x0101 := rfl

theorem push8_ok_update {v : DataByte} {s : State} (h : s.sp ≠ 0) :
    push8 v s = .ok () { s with
      sp := s.sp - 1, mem := s.mem.write (stackAddress s.sp) v, icyc := s.icyc + 1,
      budget := budgetAfter s.budget 1, bus := s.bus ++ [.write (stackAddress s.sp) v] } := by
  rw [push8_eq_ok h, write8_eq, charge_eq]
  rfl

theorem push8_raised_update {v : DataByte} {s : State} (h : s.sp = 0) :
    push8 v s = .raised { s with
      mem := s.mem.write 0x0100 v, icyc := s.icyc + 1, budget := budgetAfter s.budget 1,
      run := .halted, cause := .stackOverflow, info := 0, bus := s.bus ++ [.write 0x0100 v] } := by
  rw [push8_eq_raised h, write8_eq, charge_eq]
  rfl

/-- Every handler with an operand begins with a fetch, and ends with it if it raises. -/
theorem exec_of_fetch8_raised {i : Instr} {s t : State} (hlen : 2 ≤ i.length)
    (h : fetch8 s = .raised t) : exec i s = .next t := by
  cases i with
  | ldaImm => simp [execLdaImm, h]
  | ldaZp => simp [execLdaZp, h]
  | ldaZpx => simp [execLdaZpx, h]
  | jsrAbs => simp [execJsrAbs, fetchAddr, h]
  | unimplemented b => simp at hlen

/-- JSR's operand fetch, entered past the opcode byte. -/
theorem fetchAddr_fetched {s : State} (h : s.pc.toNat + 3 ≤ 0xFFFF) :
    fetchAddr (s.fetched 1) =
      .ok (concatBytes (s.mem.read (s.pc + 2)) (s.mem.read (s.pc + 1))) (charge 1 (s.fetched 3)) := by
  simp [fetchAddr, fetch8_fetched_of_lt (s := s) (k := 1) (by omega),
    fetch8_fetched_of_lt (s := s) (k := 2) (by omega)]

theorem fetchAddr_fetched_raised {s : State} (h : s.pc.toNat + 2 = 0xFFFF) :
    fetchAddr (s.fetched 1) = .raised (s.fetchFailed 2) := by
  simp [fetchAddr, fetch8_fetched_of_lt (s := s) (k := 1) (by omega),
    fetch8_fetched_of_eq (s := s) (k := 2) h]

/-- JSR past its operand fetch: the two pushes and the jump (R110, R111). -/
theorem execJsrAbs_fetched {s : State} (h : s.pc.toNat + 3 ≤ 0xFFFF) :
    execJsrAbs (s.fetched 1) =
      ((push8 (highByte (s.pc + 2)) (charge 1 (s.fetched 3))).bind fun _ t =>
        (push8 (lowByte (s.pc + 2)) t).bind fun _ t =>
          .ok () (t.setPc (concatBytes (s.mem.read (s.pc + 2)) (s.mem.read (s.pc + 1))))).finish := by
  have hret : s.pc + 3 - 1 = s.pc + 2 := by bv_omega
  simp only [execJsrAbs, fetchAddr_fetched h, Micro.bind_ok, charge_pc, State.fetched_pc]
  rw [← hret]
  rfl

/-! ## The rows -/

/-- `s` after a step's two fetches and its data read at `ea`, `n` cycles charged in all. -/
def State.dataRead (ea : Address) (n : Nat) (s : State) : State :=
  { s.fetched 2 with
    icyc := BitVec.ofNat 3 n, budget := budgetAfter s.budget n,
    bus := fetches s.mem s.pc 2 ++ [.read ea (s.mem.read ea)] }

@[simp] theorem State.dataRead_bus (ea : Address) (n : Nat) (s : State) :
    (s.dataRead ea n).bus = fetches s.mem s.pc 2 ++ [.read ea (s.mem.read ea)] := rfl

/-- `StepRow s s'`: the engine's step takes `s` to `s'`, one constructor per row of the spec's tables. -/
inductive StepRow (s : State) : State → Prop
  /-- The fetch of byte `k` of the instruction fails (R83, D3). -/
  | fetchFails (k : Nat) (hk : k < (decode (s.mem.read s.pc)).length) (hpc : s.pc.toNat + k = 0xFFFF) :
      StepRow s (s.fetchFailed k)
  /-- R100. -/
  | ldaImm (hdec : decode (s.mem.read s.pc) = .ldaImm) (hfit : s.pc.toNat + 2 ≤ 0xFFFF) :
      StepRow s (loadA (s.mem.read (s.pc + 1)) (s.fetched 2))
  /-- R101. -/
  | ldaZp (hdec : decode (s.mem.read s.pc) = .ldaZp) (hfit : s.pc.toNat + 2 ≤ 0xFFFF) :
      StepRow s (loadA (s.mem.read (zeroPageAddress (s.mem.read (s.pc + 1))))
        (s.dataRead (zeroPageAddress (s.mem.read (s.pc + 1))) 3))
  /-- R102. -/
  | ldaZpx (hdec : decode (s.mem.read s.pc) = .ldaZpx) (hfit : s.pc.toNat + 2 ≤ 0xFFFF) :
      StepRow s (loadA (s.mem.read (zeroPageXAddress (s.mem.read (s.pc + 1)) s.x))
        (s.dataRead (zeroPageXAddress (s.mem.read (s.pc + 1)) s.x) 4))
  /-- JSR with no room for the first push (R112). -/
  | jsrFull (hdec : decode (s.mem.read s.pc) = .jsrAbs) (hfit : s.pc.toNat + 3 ≤ 0xFFFF)
      (hsp : s.sp = 0) :
      StepRow s
        { s.fetched 3 with
          mem := s.mem.write 0x0100 (highByte (s.pc + 2)), icyc := 5, budget := budgetAfter s.budget 5,
          run := .halted, cause := .stackOverflow, info := 0,
          bus := fetches s.mem s.pc 3 ++ [.write 0x0100 (highByte (s.pc + 2))] }
  /-- JSR with room for the first push only (R112). -/
  | jsrHalf (hdec : decode (s.mem.read s.pc) = .jsrAbs) (hfit : s.pc.toNat + 3 ≤ 0xFFFF)
      (hsp : s.sp = 1) :
      StepRow s
        { s.fetched 3 with
          sp := 0,
          mem := (s.mem.write 0x0101 (highByte (s.pc + 2))).write 0x0100 (lowByte (s.pc + 2)),
          icyc := 6, budget := budgetAfter s.budget 6,
          run := .halted, cause := .stackOverflow, info := 0,
          bus := fetches s.mem s.pc 3 ++
            [.write 0x0101 (highByte (s.pc + 2)), .write 0x0100 (lowByte (s.pc + 2))] }
  /-- JSR to its end (R110). -/
  | jsr (hdec : decode (s.mem.read s.pc) = .jsrAbs) (hfit : s.pc.toNat + 3 ≤ 0xFFFF)
      (hsp : 2 ≤ s.sp) :
      StepRow s
        { s with
          pc := concatBytes (s.mem.read (s.pc + 2)) (s.mem.read (s.pc + 1)), sp := s.sp - 2,
          mem := (s.mem.write (stackAddress s.sp) (highByte (s.pc + 2))).write
            (stackAddress (s.sp - 1)) (lowByte (s.pc + 2)),
          icyc := 6, budget := budgetAfter s.budget 6,
          bus := fetches s.mem s.pc 3 ++
            [.write (stackAddress s.sp) (highByte (s.pc + 2)),
              .write (stackAddress (s.sp - 1)) (lowByte (s.pc + 2))] }
  /-- R120. -/
  | unimplemented (b : DataByte) (hdec : decode (s.mem.read s.pc) = .unimplemented b)
      (hfit : s.pc.toNat + 1 ≤ 0xFFFF) :
      StepRow s
        { s.fetched 1 with run := .halted, cause := .unimplementedOpcode, info := b.setWidth 17 }

/-- Every state has a row: the first fetch that fails, or the row of the decoded instruction. -/
theorem exists_stepRow (s : State) : ∃ s', StepRow s s' := by
  by_cases hfit : s.pc.toNat + (decode (s.mem.read s.pc)).length ≤ 0xFFFF
  · cases hdec : decode (s.mem.read s.pc) with
    | ldaImm => exact ⟨_, .ldaImm hdec (by simpa [hdec] using hfit)⟩
    | ldaZp => exact ⟨_, .ldaZp hdec (by simpa [hdec] using hfit)⟩
    | ldaZpx => exact ⟨_, .ldaZpx hdec (by simpa [hdec] using hfit)⟩
    | unimplemented b => exact ⟨_, .unimplemented b hdec (by simpa [hdec] using hfit)⟩
    | jsrAbs =>
      have hfit : s.pc.toNat + 3 ≤ 0xFFFF := by simpa [hdec] using hfit
      by_cases h0 : s.sp = 0
      · exact ⟨_, .jsrFull hdec hfit h0⟩
      by_cases h1 : s.sp = 1
      · exact ⟨_, .jsrHalf hdec hfit h1⟩
      · exact ⟨_, .jsr hdec hfit (by bv_omega)⟩
  · have hpc := s.pc.isLt
    exact ⟨_, .fetchFails (0xFFFF - s.pc.toNat) (by omega) (by omega)⟩

theorem StepRow.engineStep_eq {s s' : State} (h : StepRow s s') : engineStep s = .next s' := by
  cases h with
  | fetchFails k hk hpc =>
    match k with
    | 0 => exact engineStep_of_eq hpc
    | 1 =>
      rw [engineStep_of_lt (by omega)]
      exact exec_of_fetch8_raised hk (fetch8_fetched_of_eq hpc)
    | k + 2 =>
      rw [engineStep_of_lt (by omega)]
      cases hdec : decode (s.mem.read s.pc) with
      | jsrAbs =>
        obtain rfl : k = 0 := by simp only [hdec, Instr.length_jsrAbs] at hk; omega
        simp [execJsrAbs, fetchAddr_fetched_raised hpc]
      | ldaImm | ldaZp | ldaZpx | unimplemented =>
        simp only [hdec, Instr.length_ldaImm, Instr.length_ldaZp, Instr.length_ldaZpx,
          Instr.length_unimplemented] at hk
        omega
  | ldaImm hdec hfit =>
    rw [engineStep_of_lt (by omega), hdec]
    simp [execLdaImm, fetch8_fetched_of_lt (s := s) (k := 1) (by omega)]
  | ldaZp hdec hfit =>
    rw [engineStep_of_lt (by omega), hdec]
    simp [execLdaZp, fetch8_fetched_of_lt (s := s) (k := 1) (by omega), read8_eq, charge_eq,
      State.logBus, State.dataRead, budgetAfter_budgetAfter]
  | ldaZpx hdec hfit =>
    rw [engineStep_of_lt (by omega), hdec]
    simp [execLdaZpx, fetch8_fetched_of_lt (s := s) (k := 1) (by omega), read8_eq, charge_eq,
      State.logBus, State.dataRead, budgetAfter_budgetAfter]
  | jsrFull hdec hfit hsp =>
    rw [engineStep_of_lt (by omega), hdec, exec_jsrAbs, execJsrAbs_fetched hfit]
    simp [push8_raised_update, hsp, charge_eq, budgetAfter_budgetAfter]
  | jsrHalf hdec hfit hsp =>
    rw [engineStep_of_lt (by omega), hdec, exec_jsrAbs, execJsrAbs_fetched hfit]
    simp [push8_ok_update, push8_raised_update, stackAddress_one, hsp, charge_eq, budgetAfter_budgetAfter]
  | jsr hdec hfit hsp =>
    rw [engineStep_of_lt (by omega), hdec, exec_jsrAbs, execJsrAbs_fetched hfit]
    have h1 : s.sp ≠ 0#8 := by bv_omega
    have h2 : s.sp - 1#8 ≠ 0#8 := by bv_omega
    simp [push8_ok_update, h1, h2, charge_eq, budgetAfter_budgetAfter, BitVec.sub_sub, State.setPc]
  | unimplemented b hdec hfit =>
    rw [engineStep_of_lt (by omega), hdec]
    rfl

/-- The rows are exactly the engine's step. -/
theorem engineStep_eq_next_iff {s s' : State} : engineStep s = .next s' ↔ StepRow s s' := by
  refine ⟨fun h => ?_, StepRow.engineStep_eq⟩
  obtain ⟨t, ht⟩ := exists_stepRow s
  have heq := ht.engineStep_eq
  rw [h] at heq
  cases heq
  exact ht

/-! ## What the rows say of single registers -/

/-- An LDA at PC whose operand can be fetched (R103, D3). -/
abbrev LdaCompletes (s : State) : Prop :=
  (decode (s.mem.read s.pc)).kind = .lda ∧ s.pc ≤ 0xFFFD

theorem not_ldaCompletes_of_fetchFails {s : State} {k : Nat}
    (hk : k < (decode (s.mem.read s.pc)).length) (hpc : s.pc.toNat + k = 0xFFFF) :
    ¬ LdaCompletes s := by
  rintro ⟨hkind, hle⟩
  rw [Instr.length_of_kind_lda hkind] at hk
  bv_omega

/-- `s` with other values in A, X, Y and P. -/
def State.withRegs (a x y : DataByte) (p : Status) (s : State) : State :=
  { s with a := a, x := x, y := y, p := p }

/-- A row does not depend on A, Y and P, nor, but for LDA Zero Page,X, on X: of the four it writes A and the flags
Z and N alone, and those only where an LDA completes. -/
theorem StepRow.withRegs {s s' : State} (h : StepRow s s') (a x y : DataByte) (p : Status)
    (hx : decode (s.mem.read s.pc) = .ldaZpx → x = s.x) :
    StepRow (s.withRegs a x y p)
      (s'.withRegs (if LdaCompletes s then s'.a else a) x y
        (if LdaCompletes s then { p with z := s'.p.z, n := s'.p.n } else p)) := by
  cases h with
  | fetchFails k hk hpc =>
    simp only [if_neg (not_ldaCompletes_of_fetchFails hk hpc)]
    exact .fetchFails k hk hpc
  | ldaImm hdec hfit =>
    have hlda : LdaCompletes s := ⟨by simp [hdec], by bv_omega⟩
    simp only [if_pos hlda]
    exact .ldaImm hdec hfit
  | ldaZp hdec hfit =>
    have hlda : LdaCompletes s := ⟨by simp [hdec], by bv_omega⟩
    simp only [if_pos hlda]
    exact .ldaZp hdec hfit
  | ldaZpx hdec hfit =>
    have hlda : LdaCompletes s := ⟨by simp [hdec], by bv_omega⟩
    obtain rfl := hx hdec
    simp only [if_pos hlda]
    exact .ldaZpx hdec hfit
  | jsrFull hdec hfit hsp =>
    have hlda : ¬ LdaCompletes s := by simp [hdec]
    simp only [if_neg hlda]
    exact .jsrFull hdec hfit hsp
  | jsrHalf hdec hfit hsp =>
    have hlda : ¬ LdaCompletes s := by simp [hdec]
    simp only [if_neg hlda]
    exact .jsrHalf hdec hfit hsp
  | jsr hdec hfit hsp =>
    have hlda : ¬ LdaCompletes s := by simp [hdec]
    simp only [if_neg hlda]
    exact .jsr hdec hfit hsp
  | unimplemented b hdec hfit =>
    have hlda : ¬ LdaCompletes s := by simp [hdec]
    simp only [if_neg hlda]
    exact .unimplemented b hdec hfit

end Sys2Proof.Machine
end

section
/-! What a step of the engine does to A, X, Y, P, BUDGET and PC, read off its rows, and what a step of the machine adds
to it (spec/10_state.md R11 to R24, spec/60_exceptions.md R146). -/

namespace Sys2Proof.Machine

/-! ## The registers A, X, Y and P -/

/-- The step of the engine in the terms of `StepRow.withRegs`. -/
theorem engineStep_withRegs {s s' : State} (h : engineStep s = .next s') (a x y : DataByte) (p : Status)
    (hx : decode (s.mem.read s.pc) = .ldaZpx → x = s.x) :
    engineStep (s.withRegs a x y p) = .next
      (s'.withRegs (if LdaCompletes s then s'.a else a) x y
        (if LdaCompletes s then { p with z := s'.p.z, n := s'.p.n } else p)) :=
  ((engineStep_eq_next_iff.mp h).withRegs a x y p hx).engineStep_eq

section
variable {s s' : State} (h : engineStep s = .next s')
include h

/-- A step with its own registers put back in is the step itself: what it leaves of A, X, Y and P. -/
theorem engineStep_regs :
    s' = s'.withRegs (if LdaCompletes s then s'.a else s.a) s.x s.y
      (if LdaCompletes s then { s.p with z := s'.p.z, n := s'.p.n } else s.p) := by
  have hself : engineStep s = _ := engineStep_withRegs h s.a s.x s.y s.p fun _ => rfl
  rw [h] at hself
  exact Host.Outcome.next.inj hself

theorem engineStep_x : s'.x = s.x := by
  rw [engineStep_regs h]
  rfl

theorem engineStep_y : s'.y = s.y := by
  rw [engineStep_regs h]
  rfl

theorem engineStep_a : s'.a = if LdaCompletes s then s'.a else s.a :=
  congrArg State.a (engineStep_regs h)

theorem engineStep_p :
    s'.p = if LdaCompletes s then { s.p with z := s'.p.z, n := s'.p.n } else s.p :=
  congrArg State.p (engineStep_regs h)

theorem engineStep_a_of_not_lda (hlda : ¬ LdaCompletes s) : s'.a = s.a := by
  rw [engineStep_a h, if_neg hlda]

theorem engineStep_p_of_not_lda (hlda : ¬ LdaCompletes s) : s'.p = s.p := by
  rw [engineStep_p h, if_neg hlda]

theorem lda_of_engineStep_a_ne (hne : s'.a ≠ s.a) : LdaCompletes s :=
  Decidable.byContradiction (hne ∘ engineStep_a_of_not_lda h)

theorem lda_of_engineStep_flag_ne {f : Flag} (hne : flagOf f s'.p ≠ flagOf f s.p) : LdaCompletes s :=
  Decidable.byContradiction fun hlda => hne (by rw [engineStep_p_of_not_lda h hlda])

theorem engineStep_withA (v : DataByte) :
    engineStep { s with a := v } = .next { s' with a := if LdaCompletes s then s'.a else v } := by
  simpa [State.withRegs, engineStep_x h, engineStep_y h, ← engineStep_p h] using
    engineStep_withRegs h v s.x s.y s.p fun _ => rfl

theorem engineStep_withY (v : DataByte) :
    engineStep { s with y := v } = .next { s' with y := v } := by
  simpa [State.withRegs, engineStep_x h, ← engineStep_a h, ← engineStep_p h] using
    engineStep_withRegs h s.a s.x v s.p fun _ => rfl

theorem engineStep_withX (v : DataByte) (hdec : decode (s.mem.read s.pc) ≠ .ldaZpx) :
    engineStep { s with x := v } = .next { s' with x := v } := by
  simpa [State.withRegs, engineStep_y h, ← engineStep_a h, ← engineStep_p h] using
    engineStep_withRegs h s.a v s.y s.p fun hz => absurd hz hdec

theorem engineStep_withP (p : Status) :
    engineStep { s with p := p } = .next
      { s' with p := if LdaCompletes s then { p with z := s'.p.z, n := s'.p.n } else p } := by
  simpa [State.withRegs, engineStep_x h, engineStep_y h, ← engineStep_a h] using
    engineStep_withRegs h s.a s.x s.y p fun _ => rfl

/-- The five flags other than Z and N are storage only (R20). -/
theorem engineStep_flag {f : Flag} (hz : f ≠ .z) (hn : f ≠ .n) : flagOf f s'.p = flagOf f s.p := by
  cases f with
  | z => exact absurd rfl hz
  | n => exact absurd rfl hn
  | c | i | d | b | v =>
    rw [engineStep_p h]
    split <;> rfl

/-- R103: Z and N of the byte that an LDA leaves in A. -/
theorem engineStep_zn_of_lda (hlda : LdaCompletes s) :
    s'.p.z = (s'.a == 0x00) ∧ s'.p.n = s'.a.getLsbD 7 := by
  cases engineStep_eq_next_iff.mp h with
  | fetchFails k hk hpc => exact absurd hlda (not_ldaCompletes_of_fetchFails hk hpc)
  | ldaImm | ldaZp | ldaZpx => exact ⟨rfl, rfl⟩
  | jsrFull hdec | jsrHalf hdec | jsr hdec | unimplemented b hdec => simp [LdaCompletes, hdec] at hlda

/-- R103: the byte that an LDA leaves in A is the one it read last. -/
theorem engineStep_bus_getLast?_of_lda (hlda : LdaCompletes s) :
    ∃ addr, s'.bus.getLast? = some (.read addr s'.a) := by
  cases engineStep_eq_next_iff.mp h with
  | fetchFails k hk hpc => exact absurd hlda (not_ldaCompletes_of_fetchFails hk hpc)
  | ldaImm | ldaZp | ldaZpx => simp [loadA_eq, fetches_succ_last]
  | jsrFull hdec | jsrHalf hdec | jsr hdec | unimplemented b hdec => simp [LdaCompletes, hdec] at hlda

/-- R102: Zero Page,X reads at the 8-bit sum. -/
theorem engineStep_bus_getLast?_of_ldaZpx (hlda : LdaCompletes s)
    (hdec : decode (s.mem.read s.pc) = .ldaZpx) :
    s'.bus.getLast? = some (.read (zeroPageXAddress (s.mem.read (s.pc + 1)) s.x) s'.a) := by
  cases engineStep_eq_next_iff.mp h with
  | fetchFails k hk hpc => exact absurd hlda (not_ldaCompletes_of_fetchFails hk hpc)
  | ldaZpx => simp [loadA_eq]
  | ldaImm hdec' | ldaZp hdec' | jsrFull hdec' | jsrHalf hdec' | jsr hdec' | unimplemented b hdec' =>
    simp [hdec] at hdec'

/-! ## The cycles a step charges -/

/-- R82: BUDGET has paid the cycles counted in ICYC. -/
theorem engineStep_budget : s'.budget = budgetAfter s.budget s'.icyc.toNat := by
  cases engineStep_eq_next_iff.mp h with
  | fetchFails k hk hpc =>
    have hk3 : k < 3 := Nat.lt_of_lt_of_le hk (Instr.length_le _)
    simp [Nat.mod_eq_of_lt (show k < 8 by omega)]
  | ldaImm | ldaZp | ldaZpx | jsrFull | jsrHalf | jsr | unimplemented => rfl

/-! ## The bytes a step consumes -/

theorem engineStep_bus_take (hfit : s.pc.toNat + (decode (s.mem.read s.pc)).length ≤ 0xFFFF) :
    s'.bus.take (decode (s.mem.read s.pc)).length =
      fetches s.mem s.pc (decode (s.mem.read s.pc)).length := by
  cases engineStep_eq_next_iff.mp h with
  | fetchFails k hk hpc => omega
  | ldaImm hdec | ldaZp hdec | ldaZpx hdec => simp [hdec, loadA_eq]
  | jsrFull hdec | jsrHalf hdec | jsr hdec | unimplemented b hdec => simp [hdec]

theorem engineStep_pc (hfit : s.pc.toNat + (decode (s.mem.read s.pc)).length ≤ 0xFFFF)
    (hjsr : decode (s.mem.read s.pc) ≠ .jsrAbs) :
    s'.pc = s.pc + BitVec.ofNat 16 (decode (s.mem.read s.pc)).length := by
  cases engineStep_eq_next_iff.mp h with
  | fetchFails k hk hpc => omega
  | ldaImm hdec | ldaZp hdec | ldaZpx hdec | unimplemented b hdec => rw [hdec]; rfl
  | jsrFull hdec | jsrHalf hdec | jsr hdec => exact absurd hdec hjsr

theorem engineStep_pc_of_jsr (hdec : decode (s.mem.read s.pc) = .jsrAbs)
    (hfit : s.pc.toNat + 3 ≤ 0xFFFF) (hsp : 2 ≤ s.sp) :
    s'.pc = concatBytes (s.mem.read (s.pc + 2)) (s.mem.read (s.pc + 1)) := by
  have hrow := (StepRow.jsr hdec hfit hsp).engineStep_eq
  rw [h] at hrow
  cases hrow
  rfl

end

theorem budgetAfter_le (b : Budget) (n : Nat) : budgetAfter b n ≤ b := by
  rw [BitVec.le_def, budgetAfter_toNat]
  omega

/-! ## One step of the machine -/

/-- The loop test leaves what the end of a run leaves. -/
theorem loopTest_keeps {α : Type} {g : State → α} (hg : ∀ t, g (exhausted t) = g t) (s : State) :
    g (loopTest s) = g s := by
  rw [loopTest]
  split
  · exact hg s
  · rfl

@[simp] theorem loopTest_a (s : State) : (loopTest s).a = s.a :=
  loopTest_keeps (g := State.a) (fun _ => rfl) s
@[simp] theorem loopTest_x (s : State) : (loopTest s).x = s.x :=
  loopTest_keeps (g := State.x) (fun _ => rfl) s
@[simp] theorem loopTest_y (s : State) : (loopTest s).y = s.y :=
  loopTest_keeps (g := State.y) (fun _ => rfl) s
@[simp] theorem loopTest_p (s : State) : (loopTest s).p = s.p :=
  loopTest_keeps (g := State.p) (fun _ => rfl) s
@[simp] theorem loopTest_budget (s : State) : (loopTest s).budget = s.budget :=
  loopTest_keeps (g := State.budget) (fun _ => rfl) s
@[simp] theorem loopTest_icyc (s : State) : (loopTest s).icyc = s.icyc :=
  loopTest_keeps (g := State.icyc) (fun _ => rfl) s

/-- While Running with budget left, a step of the machine is a step of the engine and the loop test. -/
theorem step_running_inv {s s' : State} (hrun : s.run = .running) (hb : s.budget ≠ 0)
    (h : step s = .next s') : ∃ t, engineStep s = .next t ∧ s' = loopTest t := by
  obtain ⟨t, hrow⟩ := exists_stepRow s
  rw [step_running hrun hb, hrow.engineStep_eq] at h
  exact ⟨t, hrow.engineStep_eq, (Host.Outcome.next.inj h).symm⟩

/-- Who can change what the end of a run leaves as it is: the engine while Running, the host's next act while
Halted. -/
theorem step_changes {α : Type} {g : State → α} {s s' : State} (hg : ∀ t, g (exhausted t) = g t)
    (h : step s = .next s') (hne : g s' ≠ g s) :
    (s.run = .running ∧ ∃ t, engineStep s = .next t ∧ g s' = g t) ∨
      (s.run = .halted ∧ ∃ m rest, s.hostMoves = m :: rest ∧
        s' = hostAct m { s with hostMoves := rest }) := by
  by_cases hrun : s.run = .running
  · by_cases hb : s.budget = 0
    · rw [step_exhausted hrun hb] at h
      cases h
      exact absurd (hg s) hne
    · obtain ⟨t, ht, rfl⟩ := step_running_inv hrun hb h
      exact .inl ⟨hrun, t, ht, loopTest_keeps hg t⟩
  · have hhalt : s.run = .halted := by cases hs : s.run <;> simp_all
    rw [step_halted hhalt] at h
    cases h
    cases hm : s.hostMoves with
    | nil => exact absurd (by rw [hostTurn_nil hm]) hne
    | cons m rest => exact .inr ⟨hhalt, m, rest, rfl, hostTurn_cons hm⟩

/-! ## Which acts of the host write A, X, Y and the flags -/

theorem hostAct_a (m : HostMove) (s : State) :
    (hostAct m s).a = s.a ∨ m = .writeA (hostAct m s).a ∨ ∃ cfg, m = .construct cfg := by
  cases m <;> simp [hostAct, initialiseMemory, startRun]

theorem hostAct_x (m : HostMove) (s : State) :
    (hostAct m s).x = s.x ∨ m = .writeX (hostAct m s).x ∨ ∃ cfg, m = .construct cfg := by
  cases m <;> simp [hostAct, initialiseMemory, startRun]

theorem hostAct_y (m : HostMove) (s : State) :
    (hostAct m s).y = s.y ∨ m = .writeY (hostAct m s).y ∨ ∃ cfg, m = .construct cfg := by
  cases m <;> simp [hostAct, initialiseMemory, startRun]

theorem flagOf_withFlag (f g : Flag) (v : Bool) (p : Status) :
    flagOf g (withFlag f v p) = if f = g then v else flagOf g p := by
  cases f <;> cases g <;> rfl

theorem hostAct_flag (g : Flag) (m : HostMove) (s : State) :
    flagOf g (hostAct m s).p = flagOf g s.p ∨ m = .writeFlag g (flagOf g (hostAct m s).p) ∨
      (∃ v, m = .writeStatus v) ∨ ∃ cfg, m = .construct cfg := by
  cases m with
  | writeFlag f v =>
    by_cases hfg : f = g
    · subst hfg
      simp [hostAct, flagOf_withFlag]
    · simp [hostAct, flagOf_withFlag, hfg]
  | _ => simp [hostAct, initialiseMemory, startRun]

/-! ## Who changes a flag -/

/-- A step of the machine changes a flag by the engine while Running or by an act of the host on P while Halted. -/
theorem step_flag_changes {f : Flag} {s s' : State} (h : step s = .next s')
    (hne : flagOf f s'.p ≠ flagOf f s.p) :
    (s.run = .running ∧ ∃ t, engineStep s = .next t ∧ flagOf f t.p ≠ flagOf f s.p) ∨
      (s.run = .halted ∧ ∃ m rest, s.hostMoves = m :: rest ∧
        (m = .writeFlag f (flagOf f s'.p) ∨ (∃ v, m = .writeStatus v) ∨ ∃ cfg, m = .construct cfg)) := by
  obtain ⟨hrun, t, ht, hf⟩ | ⟨hrun, m, rest, hm, rfl⟩ :=
    step_changes (g := fun t => flagOf f t.p) (fun _ => rfl) h hne
  · exact .inl ⟨hrun, t, ht, hf ▸ hne⟩
  · exact .inr ⟨hrun, m, rest, hm, (hostAct_flag f m _).resolve_left hne⟩

/-- A step of the machine changes a flag other than Z and N only as an act of the host on P. -/
theorem step_storage_flag_changes {f : Flag} {s s' : State} (hz : f ≠ .z) (hn : f ≠ .n)
    (h : step s = .next s') (hne : flagOf f s'.p ≠ flagOf f s.p) :
    s.run = .halted ∧ ∃ m rest, s.hostMoves = m :: rest ∧
      ((∃ f v, m = .writeFlag f v) ∨ (∃ v, m = .writeStatus v) ∨ ∃ cfg, m = .construct cfg) := by
  obtain ⟨-, t, ht, htne⟩ | ⟨hrun, m, rest, hm, hact⟩ := step_flag_changes h hne
  · exact absurd (engineStep_flag ht hz hn) htne
  · exact ⟨hrun, m, rest, hm, hact.imp_left fun hw => ⟨f, _, hw⟩⟩

end Sys2Proof.Machine
end

section
/-! The statements on the registers, the flags and BUDGET (spec/10_state.md). -/

namespace Sys2Proof.Machine

/-- Settles O33: the opcode byte decodes to the instruction, so the row of the step is one of its own, and its fetches
are those of its bytes. -/
theorem stepConsumesItsBytes : Obligations.StepConsumesItsBytes := by
  unfold Obligations.StepConsumesItsBytes
  intro i o s hwf hfits hfit hbytes
  have hdec : decode (s.mem.read s.pc) = i := by
    have hopcode : s.mem.read s.pc = encode i := by simpa [assemble] using hbytes 0 i.length_pos
    rw [hopcode, decode_encode hwf]
  obtain ⟨s', hrow⟩ := exists_stepRow s
  have hstep := hrow.engineStep_eq
  subst hdec
  refine ⟨s', hstep, engineStep_bus_take hstep hfit, engineStep_pc hstep hfit, ?_⟩
  rintro t rfl hsp
  cases hdec : decode (s.mem.read s.pc) with
  | jsrAbs =>
    simp only [hdec, Instr.length_jsrAbs] at hfit hbytes
    have hlo : s.mem.read (s.pc + 1) = lowByte t := by
      simpa [assemble, Operand.bytes] using hbytes 1 (by omega)
    have hhi : s.mem.read (s.pc + 2) = highByte t := by
      simpa [assemble, Operand.bytes] using hbytes 2 (by omega)
    rw [engineStep_pc_of_jsr hstep hdec hfit hsp, hlo, hhi, concatBytes_highByte_lowByte]
  | ldaImm | ldaZp | ldaZpx | unimplemented => simp [hdec, Operand.fits] at hfits

/-- Settles O36: the registers of `engineStep_withRegs`, the byte read last row by row, and the acts of the host. -/
theorem accumulatorAndIndexAccess : Obligations.AccumulatorAndIndexAccess := by
  unfold Obligations.AccumulatorAndIndexAccess
  refine ⟨fun s s' h => ⟨fun hne => ?_, engineStep_x h, engineStep_y h, fun hkind hpc => ?_, fun hop hpc => ?_⟩,
    fun s s' h => ⟨fun hne => ?_, fun hne => ?_, fun hne => ?_⟩,
    fun s s' v h => ⟨_, engineStep_withA h v⟩, fun s s' v h => engineStep_withY h v, fun s s' v h hop => ?_⟩
  · exact (lda_of_engineStep_a_ne h hne).1
  · exact engineStep_bus_getLast?_of_lda h ⟨hkind, hpc⟩
  · have hdec := decode_eq_ldaZpx_iff.mpr hop
    exact engineStep_bus_getLast?_of_ldaZpx h ⟨by simp [hdec], hpc⟩ hdec
  · obtain ⟨hrun, t, ht, ha⟩ | ⟨hrun, m, rest, hm, rfl⟩ := step_changes (g := State.a) (fun _ => rfl) h hne
    · exact .inl ⟨hrun, lda_of_engineStep_a_ne ht (ha ▸ hne)⟩
    · exact .inr ⟨hrun, m, rest, hm, (hostAct_a m _).resolve_left hne⟩
  · obtain ⟨-, t, ht, hx⟩ | ⟨hrun, m, rest, hm, rfl⟩ := step_changes (g := State.x) (fun _ => rfl) h hne
    · exact absurd (engineStep_x ht) (hx ▸ hne)
    · exact ⟨hrun, m, rest, hm, (hostAct_x m _).resolve_left hne⟩
  · obtain ⟨-, t, ht, hy⟩ | ⟨hrun, m, rest, hm, rfl⟩ := step_changes (g := State.y) (fun _ => rfl) h hne
    · exact absurd (engineStep_y ht) (hy ▸ hne)
    · exact ⟨hrun, m, rest, hm, (hostAct_y m _).resolve_left hne⟩
  · exact engineStep_withX h v (hop ∘ decode_eq_ldaZpx_iff.mp)

/-- Settles O37: a completed LDA writes Z and N from A, every other step keeps P, and the acts of the host. -/
theorem zeroAndNegativeWrites : Obligations.ZeroAndNegativeWrites := by
  unfold Obligations.ZeroAndNegativeWrites
  refine ⟨fun s s' h => ⟨fun hlda => ?_, fun hlda => ?_⟩, fun s s' z n h => ⟨_, engineStep_withP h _⟩,
    fun s s' h => ⟨fun hne => ?_, fun hne => ?_⟩, fun cfg s => ⟨rfl, rfl⟩⟩
  · obtain ⟨hz, hn⟩ := engineStep_zn_of_lda h hlda
    exact ⟨by simp [hz], hn⟩
  · simp [engineStep_p_of_not_lda h hlda]
  · exact (step_flag_changes (f := .z) h hne).imp_left fun ⟨hrun, _, ht, htne⟩ =>
      ⟨hrun, lda_of_engineStep_flag_ne ht htne⟩
  · exact (step_flag_changes (f := .n) h hne).imp_left fun ⟨hrun, _, ht, htne⟩ =>
      ⟨hrun, lda_of_engineStep_flag_ne ht htne⟩

/-- Settles O38: an LDA writes Z and N alone, so the five flags pass through every row. -/
theorem storageFlagsAreInert : Obligations.StorageFlagsAreInert := by
  unfold Obligations.StorageFlagsAreInert
  refine ⟨fun s s' h => ?_, fun s s' c i d b v h => ?_, fun s s' h hne => ?_⟩
  · have hflag {f : Flag} := engineStep_flag (f := f) h
    exact ⟨hflag (f := .c) nofun nofun, hflag (f := .i) nofun nofun, hflag (f := .d) nofun nofun,
      hflag (f := .b) nofun nofun, hflag (f := .v) nofun nofun⟩
  · rw [engineStep_withP h]
    by_cases hlda : LdaCompletes s
    · simp only [if_pos hlda]
    · simp only [if_neg hlda, engineStep_p_of_not_lda h hlda]
  · have hchange {f : Flag} := step_storage_flag_changes (f := f) (h := h)
    rcases hne with hc | hi | hd | hb | hv
    · exact hchange (f := .c) nofun nofun hc
    · exact hchange (f := .i) nofun nofun hi
    · exact hchange (f := .d) nofun nofun hd
    · exact hchange (f := .b) nofun nofun hb
    · exact hchange (f := .v) nofun nofun hv

/-- Settles O39: the start loads BUDGET, and a step pays the cycles it counted, which the loop test leaves. -/
theorem budgetCountsDown : Obligations.BudgetCountsDown := by
  unfold Obligations.BudgetCountsDown
  refine ⟨fun s b rest hrun hmoves => ?_, fun s s' hrun hb h => ?_, fun s hrun hb => ?_, fun s hrun => ?_⟩
  · refine ⟨_, step_halted hrun, ?_⟩
    simp [hostTurn_cons hmoves, hostAct, startRun]
  · obtain ⟨t, ht, rfl⟩ := step_running_inv hrun hb h
    have hpaid : t.budget = budgetAfter s.budget t.icyc.toNat := engineStep_budget ht
    rw [loopTest_budget, loopTest_icyc]
    exact ⟨hpaid, hpaid ▸ budgetAfter_le _ _⟩
  · exact step_exhausted hrun hb
  · simp [hostRead, hrun]

end Sys2Proof.Machine
end

section
/-! What a memory cell reads as after writes (spec/20_memory.md R42), and where the addresses lie that the model
assembles from bytes (R48). -/

namespace Sys2Proof

theorem concatBytes_toNat (hi lo : DataByte) :
    (concatBytes hi lo).toNat = 256 * hi.toNat + lo.toNat := by
  have hlo := lo.isLt
  have hhi := hi.isLt
  have hshift : (hi.setWidth 16 <<< 8).toNat = hi.toNat <<< 8 := by
    simp [Nat.shiftLeft_eq]
    omega
  rw [concatBytes, BitVec.toNat_or, hshift, BitVec.toNat_setWidth_of_le (by decide),
    ← Nat.shiftLeft_add_eq_or_of_lt hlo, Nat.shiftLeft_eq]
  omega

end Sys2Proof

namespace Sys2Proof.Machine

/-! ## One write -/

theorem Memory.find?_insert_same {k : Nat} {v : DataByte} {m : Memory} (hk : ∀ c ∈ m, c.1 ≠ k) :
    (Memory.insert k v m).find? (fun c => c.1 == k) = some (k, v) := by
  induction m with
  | nil => simp [Memory.insert]
  | cons c rest ih =>
    obtain ⟨hc, hrest⟩ := List.forall_mem_cons.mp hk
    rw [Memory.insert]
    split
    · simp
    · simp [hc, ih hrest]

theorem Memory.find?_insert_of_ne {k j : Nat} {v : DataByte} {m : Memory} (h : j ≠ k) :
    (Memory.insert k v m).find? (fun c => c.1 == j) = m.find? (fun c => c.1 == j) := by
  induction m with
  | nil => simp [Memory.insert, h.symm]
  | cons c rest ih =>
    rw [Memory.insert]
    split
    · simp [h.symm]
    · simp [List.find?_cons, ih]

/-- R42: the cell written reads as what was written. -/
@[simp] theorem Memory.read_write_same (m : Memory) (addr : Address) (v : DataByte) :
    (m.write addr v).read addr = v := by
  rw [Memory.write]
  split
  case isTrue hv =>
    have hnone : (m.filter fun c => c.1 != addr.toNat).find? (fun c => c.1 == addr.toNat) = none := by
      simp
    rw [Memory.read, hnone, hv]
  case isFalse =>
    rw [Memory.read, Memory.find?_insert_same fun c hc => by simpa using (List.mem_filter.mp hc).2]

/-- R42: no other cell changes. -/
theorem Memory.read_write_of_ne {addr other : Address} (m : Memory) (v : DataByte) (h : other ≠ addr) :
    (m.write addr v).read other = m.read other := by
  have hne : other.toNat ≠ addr.toNat := fun heq => h (BitVec.eq_of_toNat_eq heq)
  have hothers : (m.filter fun c => c.1 != addr.toNat).find? (fun c => c.1 == other.toNat) =
      m.find? (fun c => c.1 == other.toNat) := by
    rw [List.find?_filter]
    congr 1
    funext c
    by_cases hc : c.1 = other.toNat <;> simp [hc, hne]
  rw [Memory.write]
  split
  · rw [Memory.read, hothers, Memory.read]
  · rw [Memory.read, Memory.find?_insert_of_ne hne, hothers, Memory.read]

/-! ## The writes of a byte list -/

theorem Memory.read_writeBytes_outside {k : Nat} {bytes : List DataByte} {addr : Address} (m : Memory)
    (h : addr.toNat < k ∨ k + bytes.length ≤ addr.toNat) :
    (m.writeBytes k bytes).read addr = m.read addr := by
  induction bytes generalizing m k with
  | nil => rfl
  | cons v rest ih =>
    rw [List.length_cons] at h
    rw [Memory.writeBytes, ih _ (by omega)]
    split
    · exact Memory.read_write_of_ne m v (by bv_omega)
    · rfl

theorem Memory.read_writeBytes_inside {k i : Nat} {bytes : List DataByte} (m : Memory)
    (hi : i < bytes.length) (hk : k + i < 65536) :
    some ((m.writeBytes k bytes).read (BitVec.ofNat 16 (k + i))) = bytes[i]? := by
  induction bytes generalizing m k i with
  | nil => simp at hi
  | cons v rest ih =>
    rw [Memory.writeBytes, if_pos (by omega)]
    cases i with
    | zero =>
      rw [Memory.read_writeBytes_outside _ (by simp; omega)]
      simp
    | succ i =>
      rw [show k + (i + 1) = k + 1 + i by omega]
      simpa using ih _ (by simpa using hi) (by omega)

/-! ## Stack page and zero page -/

theorem stackAddress_toNat (sp : DataByte) : (stackAddress sp).toNat = 256 + sp.toNat := by
  simp [stackAddress, concatBytes_toNat]

theorem stackAddress_ge (sp : DataByte) : 0x0100 ≤ stackAddress sp := by
  simp [BitVec.le_def, stackAddress_toNat]

theorem stackAddress_le (sp : DataByte) : stackAddress sp ≤ 0x01FF := by
  have hsp := sp.isLt
  simp [BitVec.le_def, stackAddress_toNat]
  omega

theorem stackAddress_inj {sp sp' : DataByte} : stackAddress sp = stackAddress sp' ↔ sp = sp' := by
  simp [← BitVec.toNat_inj, stackAddress_toNat]

theorem zeroPageAddress_le (zp : DataByte) : zeroPageAddress zp ≤ 0x00FF := by
  have hzp := zp.isLt
  simp [BitVec.le_def, zeroPageAddress]
  omega

theorem zeroPageXAddress_le (zp x : DataByte) : zeroPageXAddress zp x ≤ 0x00FF :=
  zeroPageAddress_le (zp + x)

end Sys2Proof.Machine
end

section
/-! What a step of the engine does at the memory port and to the memory, and that it does not know the acts of the
host: read off its rows (spec/20_memory.md R46 to R57). -/

namespace Sys2Proof

theorem decode_eq_ldaZp_iff {b : DataByte} : decode b = .ldaZp ↔ b = 0xA5 := by
  simp [decode_eq_iff, Instr.wf, encode]

theorem decode_eq_jsrAbs_iff {b : DataByte} : decode b = .jsrAbs ↔ b = 0x20 := by
  simp [decode_eq_iff, Instr.wf, encode]

end Sys2Proof

namespace Sys2Proof.Machine

/-! ## Port transactions -/

theorem mem_fetches {m : Memory} {addr : Address} {n : Nat} {op : BusOp} :
    op ∈ fetches m addr n ↔
      ∃ k < n, op = .read (addr + BitVec.ofNat 16 k) (m.read (addr + BitVec.ofNat 16 k)) := by
  induction n with
  | zero => simp [fetches]
  | succ n ih =>
    rw [fetches_succ_last, List.mem_append, ih, List.mem_singleton]
    simp only [Nat.lt_succ_iff_lt_or_eq, or_and_right, exists_or, exists_eq_left]

@[simp] theorem write_not_mem_fetches (m : Memory) (addr a : Address) (n : Nat) (v : DataByte) :
    BusOp.write a v ∉ fetches m addr n := by
  simp [mem_fetches]

theorem read_mem_fetches_addr {m : Memory} {addr a : Address} {n : Nat} {v : DataByte} (hn : n ≤ 3)
    (h : BusOp.read a v ∈ fetches m addr n) : a = addr ∨ a = addr + 1 ∨ a = addr + 2 := by
  obtain ⟨k, hk, heq⟩ := mem_fetches.mp h
  obtain ⟨rfl, -⟩ := BusOp.read.inj heq
  obtain rfl | rfl | rfl : k = 0 ∨ k = 1 ∨ k = 2 := by omega
  all_goals simp

/-! ## The port transactions of a step -/

section
variable {s s' : State} (h : engineStep s = .next s')
include h

/-- The row that applies is the state the step ends in. -/
theorem engineStep_eq_of_stepRow {t : State} (hrow : StepRow s t) : s' = t :=
  Host.Outcome.next.inj (h.symm.trans hrow.engineStep_eq)

theorem engineStep_bus_of_ldaZp (hdec : decode (s.mem.read s.pc) = .ldaZp) (hpc : s.pc ≤ 0xFFFD) :
    s'.bus = fetches s.mem s.pc 2 ++
      [.read (zeroPageAddress (s.mem.read (s.pc + 1)))
        (s.mem.read (zeroPageAddress (s.mem.read (s.pc + 1))))] := by
  obtain rfl := engineStep_eq_of_stepRow h (.ldaZp hdec (by bv_omega))
  simp [loadA_eq]

theorem engineStep_bus_of_ldaZpx (hdec : decode (s.mem.read s.pc) = .ldaZpx) (hpc : s.pc ≤ 0xFFFD) :
    s'.bus = fetches s.mem s.pc 2 ++
      [.read (zeroPageXAddress (s.mem.read (s.pc + 1)) s.x)
        (s.mem.read (zeroPageXAddress (s.mem.read (s.pc + 1)) s.x))] := by
  obtain rfl := engineStep_eq_of_stepRow h (.ldaZpx hdec (by bv_omega))
  simp [loadA_eq]

/-- Every write of a step is one of JSR's two pushes. -/
theorem engineStep_write_mem_bus {addr : Address} {v : DataByte} (hop : BusOp.write addr v ∈ s'.bus) :
    decode (s.mem.read s.pc) = .jsrAbs ∧ (addr = stackAddress s.sp ∨ addr = stackAddress (s.sp - 1)) := by
  cases engineStep_eq_next_iff.mp h with
  | fetchFails k => exact absurd hop (write_not_mem_fetches s.mem s.pc addr (k + 1) v)
  | ldaImm | ldaZp | ldaZpx | unimplemented => simp [loadA_eq] at hop
  | jsrFull hdec hfit hsp =>
    obtain ⟨rfl, -⟩ : addr = 0x0100 ∧ v = highByte (s.pc + 2) := by simpa using hop
    exact ⟨hdec, .inl (by rw [hsp]; rfl)⟩
  | jsrHalf hdec hfit hsp =>
    obtain ⟨rfl, -⟩ | ⟨rfl, -⟩ : addr = 0x0101 ∧ v = highByte (s.pc + 2) ∨
        addr = 0x0100 ∧ v = lowByte (s.pc + 2) := by simpa using hop
    · exact ⟨hdec, .inl (by rw [hsp]; rfl)⟩
    · exact ⟨hdec, .inr (by rw [hsp]; rfl)⟩
  | jsr hdec =>
    obtain ⟨rfl, -⟩ | ⟨rfl, -⟩ : addr = stackAddress s.sp ∧ v = highByte (s.pc + 2) ∨
        addr = stackAddress (s.sp - 1) ∧ v = lowByte (s.pc + 2) := by simpa using hop
    · exact ⟨hdec, .inl rfl⟩
    · exact ⟨hdec, .inr rfl⟩

/-- Every read of a step is an instruction fetch or lies in the zero page. -/
theorem engineStep_read_mem_bus {addr : Address} {v : DataByte} (hop : BusOp.read addr v ∈ s'.bus) :
    addr = s.pc ∨ addr = s.pc + 1 ∨ addr = s.pc + 2 ∨ addr ≤ 0x00FF := by
  suffices hreach : (∃ n ≤ 3, BusOp.read addr v ∈ fetches s.mem s.pc n) ∨ addr ≤ 0x00FF by
    obtain ⟨n, hn, hfetch⟩ | hzero := hreach
    · exact (read_mem_fetches_addr hn hfetch).imp_right (Or.imp_right .inl)
    · exact .inr (.inr (.inr hzero))
  cases engineStep_eq_next_iff.mp h with
  | fetchFails k hk => exact .inl ⟨k + 1, Nat.le_trans hk (Instr.length_le _), hop⟩
  | ldaImm => exact .inl ⟨2, by decide, hop⟩
  | ldaZp | ldaZpx =>
    refine (List.mem_append.mp hop).imp (fun hfetch => ⟨2, by decide, hfetch⟩) fun hdata => ?_
    obtain ⟨rfl, -⟩ := BusOp.read.inj (List.mem_singleton.mp hdata)
    exact zeroPageAddress_le _
  | jsrFull | jsrHalf | jsr => exact .inl ⟨3, by decide, by simpa using hop⟩
  | unimplemented => exact .inl ⟨1, by decide, hop⟩

/-- A cell that the port did not write keeps its byte. -/
theorem engineStep_mem_read_of_not_written {addr : Address} (hw : ∀ v, BusOp.write addr v ∉ s'.bus) :
    s'.mem.read addr = s.mem.read addr := by
  cases engineStep_eq_next_iff.mp h with
  | fetchFails | ldaImm | ldaZp | ldaZpx | unimplemented => rfl
  | jsrFull =>
    exact Memory.read_write_of_ne _ _ fun heq => hw (highByte (s.pc + 2)) (by rw [heq]; simp)
  | jsrHalf | jsr =>
    exact (Memory.read_write_of_ne _ _ fun heq => hw (lowByte (s.pc + 2)) (by rw [heq]; simp)).trans
      (Memory.read_write_of_ne _ _ fun heq => hw (highByte (s.pc + 2)) (by rw [heq]; simp))

theorem engineStep_mem_read_outside_stack {addr : Address} (hout : addr < 0x0100 ∨ 0x01FF < addr) :
    s'.mem.read addr = s.mem.read addr := by
  refine engineStep_mem_read_of_not_written h fun v hop => ?_
  obtain ⟨-, hcell⟩ := engineStep_write_mem_bus h hop
  obtain ⟨sp, rfl⟩ : ∃ sp, addr = stackAddress sp := hcell.elim (⟨_, ·⟩) (⟨_, ·⟩)
  have hge := stackAddress_ge sp
  have hle := stackAddress_le sp
  bv_omega

/-- R111: the two stack cells after a JSR that completes hold the address of its last byte. -/
theorem engineStep_mem_read_of_jsr (hdec : decode (s.mem.read s.pc) = .jsrAbs)
    (hfit : s.pc.toNat + 3 ≤ 0xFFFF) (hsp : 2 ≤ s.sp) :
    s'.mem.read (stackAddress s.sp) = highByte (s.pc + 2) ∧
      s'.mem.read (stackAddress (s.sp - 1)) = lowByte (s.pc + 2) := by
  obtain rfl := engineStep_eq_of_stepRow h (.jsr hdec hfit hsp)
  have hcells : stackAddress s.sp ≠ stackAddress (s.sp - 1) := by
    rw [Ne, stackAddress_inj]
    bv_omega
  exact ⟨(Memory.read_write_of_ne _ _ hcells).trans (Memory.read_write_same ..), Memory.read_write_same ..⟩

/-! ## The acts of the host -/

theorem engineStep_hostMoves : s'.hostMoves = s.hostMoves := by
  cases engineStep_eq_next_iff.mp h with
  | fetchFails | ldaImm | ldaZp | ldaZpx | jsrFull | jsrHalf | jsr | unimplemented => rfl

/-- R56: no row reads what the host has still to do. -/
theorem engineStep_withHostMoves (moves : List HostMove) :
    engineStep { s with hostMoves := moves } = .next { s' with hostMoves := moves } := by
  apply StepRow.engineStep_eq
  cases engineStep_eq_next_iff.mp h with
  | fetchFails k hk hpc => exact .fetchFails k hk hpc
  | ldaImm hdec hfit => exact .ldaImm hdec hfit
  | ldaZp hdec hfit => exact .ldaZp hdec hfit
  | ldaZpx hdec hfit => exact .ldaZpx hdec hfit
  | jsrFull hdec hfit hsp => exact .jsrFull hdec hfit hsp
  | jsrHalf hdec hfit hsp => exact .jsrHalf hdec hfit hsp
  | jsr hdec hfit hsp => exact .jsr hdec hfit hsp
  | unimplemented b hdec hfit => exact .unimplemented b hdec hfit

end

@[simp] theorem loopTest_hostMoves (s : State) : (loopTest s).hostMoves = s.hostMoves :=
  loopTest_keeps (g := State.hostMoves) (fun _ => rfl) s

theorem loopTest_withHostMoves (s : State) (moves : List HostMove) :
    loopTest { s with hostMoves := moves } = { loopTest s with hostMoves := moves } := by
  rw [loopTest, loopTest]
  split <;> rfl

/-! ## Loading memory -/

/-- R55: the loader's acts, one step each, leave the memory that `Memory.writeBytes` describes. -/
theorem core_run_loadMoves {base : Nat} {bytes : List DataByte} {rest : List HostMove} {s : State}
    (hfit : base + bytes.length ≤ 65536) (hrun : s.run = .halted)
    (hmoves : s.hostMoves = loadMoves base bytes ++ rest) :
    core.run bytes.length s =
      .next { s with mem := s.mem.writeBytes base bytes, hostMoves := rest } := by
  induction bytes generalizing base s with
  | nil =>
    rw [loadMoves, List.nil_append] at hmoves
    subst hmoves
    exact core_run_zero s
  | cons v bytes ih =>
    rw [List.length_cons] at hfit
    have hbase : base < 65536 := by omega
    rw [loadMoves, if_pos hbase, List.cons_append] at hmoves
    have hstep := step_halted hrun
    rw [hostTurn_cons hmoves] at hstep
    rw [Memory.writeBytes, if_pos hbase]
    exact (core_run_succ hstep bytes.length).trans (ih (by omega) hrun rfl)

/-! ## The next fetch -/

theorem engineStep_of_fetchOpcode_ok {s t : State} {op : DataByte} (h : fetchOpcode s = .ok op t) :
    engineStep s = exec (decode op) t := by
  simp only [engineStep, h]

/-- Away from the top of the address space the opcode fetch gives the byte at PC. -/
theorem fetchOpcode_eq_ok {s : State} (h : s.pc ≠ 0xFFFF) :
    fetchOpcode s = .ok (s.mem.read s.pc) (s.fetched 1) := by
  rw [fetchOpcode, ← State.fetched_zero, fetch8_fetched_of_lt (by bv_omega)]
  simp

end Sys2Proof.Machine
end

section
/-! The statements on memory (spec/20_memory.md). -/

namespace Sys2Proof.Machine

/-- Settles O9: the port transactions of each row, and the cells that the port does not write. -/
theorem reachOfInstructions : Obligations.ReachOfInstructions := by
  unfold Obligations.ReachOfInstructions
  refine ⟨fun s => ⟨?_, fun hpc => ?_⟩, fun s s' h hop => engineStep_bus_of_ldaZp h (decode_eq_ldaZp_iff.mpr hop),
    fun s s' h hop => engineStep_bus_of_ldaZpx h (decode_eq_ldaZpx_iff.mpr hop),
    fun zp x => ⟨zeroPageAddress_le zp, zeroPageXAddress_le zp x⟩, fun s s' h addr v hop => ?_,
    fun s s' h addr v hop => engineStep_read_mem_bus h hop,
    fun s s' h addr hout => engineStep_mem_read_outside_stack h hout, fun s hop hpc hsp => ?_⟩
  · rintro ⟨v, s', hfetch⟩
    obtain ⟨hpc, -, -⟩ := fetch8_ok_inv hfetch
    bv_omega
  · exact ⟨_, _, fetch8_eq_ok (by bv_omega)⟩
  · obtain ⟨hdec, haddr⟩ := engineStep_write_mem_bus h hop
    refine ⟨decode_eq_jsrAbs_iff.mp hdec, haddr, ?_⟩
    obtain rfl | rfl := haddr <;> exact ⟨stackAddress_ge _, stackAddress_le _⟩
  · exact ⟨_, (StepRow.jsr (decode_eq_jsrAbs_iff.mpr hop) (by bv_omega) hsp).engineStep_eq, rfl⟩

/-- Settles O35: where no fetch and no push fails, the row is that of the decoded instruction. -/
theorem accessesAreChargedOnce : Obligations.AccessesAreChargedOnce := by
  unfold Obligations.AccessesAreChargedOnce
  intro s s' h hpc hsp
  cases engineStep_eq_next_iff.mp h with
  | fetchFails k hk hpc' =>
    have hk3 := Instr.length_le (decode (s.mem.read s.pc))
    bv_omega
  | jsrFull hdec hfit hsp' | jsrHalf hdec hfit hsp' => simp [hsp'] at hsp
  | ldaImm hdec | ldaZp hdec | ldaZpx hdec | jsr hdec | unimplemented b hdec =>
    rw [hdec]
    exact ⟨rfl, rfl, rfl⟩

/-- Settles O51: the loader's acts write the bytes one by one. -/
theorem loaderFillsMemory : Obligations.LoaderFillsMemory := by
  unfold Obligations.LoaderFillsMemory
  intro base bytes rest s hfit hrun hmoves
  exact ⟨_, core_run_loadMoves hfit hrun hmoves,
    fun k hk => Memory.read_writeBytes_inside s.mem hk (by omega),
    fun addr hout => Memory.read_writeBytes_outside s.mem hout⟩

/-- Settles O52: the engine's step and the loop test pass the acts of the host through. -/
theorem hostHasNoMoveWhileRunning : Obligations.HostHasNoMoveWhileRunning := by
  unfold Obligations.HostHasNoMoveWhileRunning
  intro s s' moves hrun h
  by_cases hb : s.budget = 0
  · rw [step_exhausted hrun hb] at h
    cases h
    exact ⟨rfl, step_exhausted hrun hb⟩
  · obtain ⟨t, ht, rfl⟩ := step_running_inv hrun hb h
    refine ⟨(loopTest_hostMoves t).trans (engineStep_hostMoves ht), ?_⟩
    have hstep : step { s with hostMoves := moves } = _ := step_running hrun hb
    rw [hstep, engineStep_withHostMoves ht, ← loopTest_withHostMoves]
    rfl

/-- Settles O57: the target reads as the byte pushed there, and it is far below the top of the address space. -/
theorem pushedByteIsFetchedNext : Obligations.PushedByteIsFetchedNext := by
  unfold Obligations.PushedByteIsFetchedNext
  intro s pushed hop hpc hsp target htarget
  have hdec := decode_eq_jsrAbs_iff.mpr hop
  have hfit : s.pc.toNat + 3 ≤ 0xFFFF := by bv_omega
  obtain ⟨s', hrow⟩ := exists_stepRow s
  have hstep := hrow.engineStep_eq
  have hjump : s'.pc = target := engineStep_pc_of_jsr hstep hdec hfit hsp
  obtain ⟨hhigh, hlow⟩ := engineStep_mem_read_of_jsr hstep hdec hfit hsp
  obtain ⟨sp, hcell, hpushed⟩ : ∃ sp, target = stackAddress sp ∧ s'.mem.read (stackAddress sp) = pushed := by
    obtain ⟨hcell, rfl⟩ | ⟨hcell, rfl⟩ := htarget
    · exact ⟨_, hcell, hlow⟩
    · exact ⟨_, hcell, hhigh⟩
  rw [hcell] at hjump
  have htop : s'.pc ≠ 0xFFFF := by
    have hle := stackAddress_le sp
    bv_omega
  have hfetch := fetchOpcode_eq_ok htop
  rw [hjump, hpushed] at hfetch
  exact ⟨s', _, hstep, hfetch, engineStep_of_fetchOpcode_ok hfetch⟩

end Sys2Proof.Machine
end

section
/-! Bytes and whole instructions: the two halves of an address (spec/30_encoding.md R62 (d)), the parts of an
unimplemented byte (R64), and which byte lists `disassemble` accepts (R60 to R63). -/

namespace Sys2Proof

/-! ## The halves of an address -/

theorem highByte_toNat (a : Address) : (highByte a).toNat = a.toNat / 256 := by
  have ha := a.isLt
  rw [highByte, BitVec.extractLsb'_toNat, Nat.shiftRight_eq_div_pow]
  omega

theorem lowByte_toNat (a : Address) : (lowByte a).toNat = a.toNat % 256 := by
  simp [lowByte]

@[simp] theorem highByte_concatBytes (hi lo : DataByte) : highByte (concatBytes hi lo) = hi := by
  have hlo := lo.isLt
  apply BitVec.eq_of_toNat_eq
  rw [highByte_toNat, concatBytes_toNat]
  omega

@[simp] theorem lowByte_concatBytes (hi lo : DataByte) : lowByte (concatBytes hi lo) = lo := by
  have hlo := lo.isLt
  apply BitVec.eq_of_toNat_eq
  rw [lowByte_toNat, concatBytes_toNat]
  omega

/-! ## The parts of an unimplemented byte -/

@[simp] theorem Instr.mode?_unimplemented (b : DataByte) : (Instr.unimplemented b).mode? = none := rfl
@[simp] theorem Instr.baseCycles?_unimplemented (b : DataByte) :
    (Instr.unimplemented b).baseCycles? = none := rfl

/-! ## Reading the operand of a decoded instruction -/

/-- The operand bytes of `i` read from the front of a byte list, as `disassemble` does past the opcode byte. -/
def takeOperand (i : Instr) (bytes : List DataByte) : DecodeResult :=
  match i with
  | .ldaImm | .ldaZp | .ldaZpx => takeByteOperand i bytes
  | .jsrAbs => takeTargetOperand i bytes
  | .unimplemented _ => .accepted i .none bytes

theorem disassemble_cons (b : DataByte) (bytes : List DataByte) :
    disassemble (b :: bytes) = takeOperand (decode b) bytes := by
  rw [disassemble]
  cases decode b <;> rfl

theorem takeByteOperand_eq_accepted_iff {i j : Instr} {o : Operand} {bytes rest : List DataByte} :
    takeByteOperand i bytes = .accepted j o rest ↔ i = j ∧ ∃ b, o = .byte b ∧ bytes = b :: rest := by
  constructor
  · intro h
    match bytes with
    | b :: bytes =>
      obtain ⟨rfl, rfl, rfl⟩ := DecodeResult.accepted.inj h
      exact ⟨rfl, b, rfl, rfl⟩
    | [] => cases h
  · rintro ⟨rfl, b, rfl, rfl⟩
    rw [takeByteOperand]

/-- The two bytes read are the halves of the target, low byte first. -/
theorem takeTargetOperand_eq_accepted_iff {i j : Instr} {o : Operand} {bytes rest : List DataByte} :
    takeTargetOperand i bytes = .accepted j o rest ↔
      i = j ∧ ∃ t, o = .target t ∧ bytes = lowByte t :: highByte t :: rest := by
  constructor
  · intro h
    match bytes with
    | lo :: hi :: bytes =>
      obtain ⟨rfl, rfl, rfl⟩ := DecodeResult.accepted.inj h
      exact ⟨rfl, _, rfl, by simp⟩
    | [] | [_] => cases h
  · rintro ⟨rfl, t, rfl, rfl⟩
    rw [takeTargetOperand, concatBytes_highByte_lowByte]

/-- Reading an operand accepts exactly the bytes of an operand of the instruction's format. -/
theorem takeOperand_eq_accepted_iff {i j : Instr} {o : Operand} {bytes rest : List DataByte} :
    takeOperand i bytes = .accepted j o rest ↔ i = j ∧ o.fits i = true ∧ bytes = o.bytes ++ rest := by
  cases i with
  | ldaImm | ldaZp | ldaZpx =>
    rw [takeOperand, takeByteOperand_eq_accepted_iff]
    cases o <;> simp [Operand.fits, Operand.bytes]
  | jsrAbs =>
    rw [takeOperand, takeTargetOperand_eq_accepted_iff]
    cases o <;> simp [Operand.fits, Operand.bytes]
  | unimplemented b =>
    rw [takeOperand, DecodeResult.accepted.injEq]
    cases o <;> simp [Operand.fits, Operand.bytes]

/-- `disassemble` accepts exactly the assembled bytes of the well-formed instructions, whatever follows them. -/
theorem disassemble_eq_accepted_iff {i : Instr} {o : Operand} {bytes rest : List DataByte} :
    disassemble bytes = .accepted i o rest ↔
      i.wf = true ∧ o.fits i = true ∧ bytes = assemble i o ++ rest := by
  cases bytes with
  | nil => simp [disassemble, assemble]
  | cons b bytes =>
    rw [disassemble_cons, takeOperand_eq_accepted_iff, assemble, List.cons_append, List.cons.injEq]
    constructor
    · rintro ⟨rfl, hfits, hbytes⟩
      exact ⟨decode_wf b, hfits, (encode_decode b).symm, hbytes⟩
    · rintro ⟨hwf, hfits, rfl, hbytes⟩
      rw [decode_encode hwf]
      exact ⟨rfl, hfits, hbytes⟩

end Sys2Proof

namespace Sys2Proof.Machine

/-! ## Effective addresses and the immediate operand -/

theorem zeroPageAddress_toNat (zp : DataByte) : (zeroPageAddress zp).toNat = zp.toNat :=
  BitVec.toNat_setWidth_of_le (by decide)

/-- R62 (b): the high byte of a zero-page address is 0. -/
theorem zeroPageAddress_eq_concatBytes (zp : DataByte) : zeroPageAddress zp = concatBytes 0x00 zp := by
  apply BitVec.eq_of_toNat_eq
  simp [zeroPageAddress_toNat, concatBytes_toNat]

theorem zeroPageXAddress_toNat (zp x : DataByte) :
    (zeroPageXAddress zp x).toNat = (zp.toNat + x.toNat) % 256 := by
  rw [zeroPageXAddress, zeroPageAddress_toNat, BitVec.toNat_add]

@[simp] theorem loadA_a (v : DataByte) (s : State) : (loadA v s).a = v := rfl

/-- R62 (a): the handler loads the byte it fetches as it stands. -/
theorem execLdaImm_eq_next {s : State} (h : s.pc ≠ 0xFFFF) :
    execLdaImm s = .next (loadA (s.mem.read s.pc)
      (charge 1 ((s.logBus (.read s.pc (s.mem.read s.pc))).setPc (s.pc + 1)))) := by
  rw [execLdaImm, fetch8_eq_ok h, Micro.bind_ok, Micro.finish_ok]

end Sys2Proof.Machine
end

section
/-! The statements on decoding and encoding (spec/30_encoding.md). -/

namespace Sys2Proof.Machine

/-- Settles O3: `disassemble` accepts exactly the assembled bytes. -/
theorem disassembleInvertsAssemble : Obligations.DisassembleInvertsAssemble := by
  unfold Obligations.DisassembleInvertsAssemble
  exact ⟨fun _ _ _ hwf hfits => disassemble_eq_accepted_iff.mpr ⟨hwf, hfits, rfl⟩,
    fun _ _ _ _ h => disassemble_eq_accepted_iff.mp h⟩

/-- Settles O1: the four rows as the table has them; every other byte misses the table, and its row of the step is that
of an unimplemented byte. -/
theorem decodeTableIsTotal : Obligations.DecodeTableIsTotal := by
  unfold Obligations.DecodeTableIsTotal
  refine ⟨⟨rfl, rfl, rfl, rfl, rfl⟩, ⟨rfl, rfl, rfl, rfl, rfl⟩, ⟨rfl, rfl, rfl, rfl, rfl⟩,
    ⟨rfl, rfl, rfl, rfl, rfl⟩, fun b hb => ?_⟩
  have hdec := decode_of_not_known hb
  rw [hdec]
  refine ⟨rfl, Instr.kind_unimplemented b, Instr.mode?_unimplemented b, Instr.length_unimplemented b,
    Instr.baseCycles?_unimplemented b, ?_⟩
  rintro s rfl hpc
  exact ⟨_, (StepRow.unimplemented _ hdec (by bv_omega)).engineStep_eq, rfl⟩

/-- Settles O2: `encode` and `decode` are inverse on the well-formed instructions and on the bytes. -/
theorem encodeInvertsDecode : Obligations.EncodeInvertsDecode := by
  unfold Obligations.EncodeInvertsDecode
  exact ⟨rfl, rfl, rfl, rfl, fun _ => rfl, fun _ => decode_encode, fun b => ⟨encode_decode b, decode_wf b⟩⟩

/-- Settles O5: the immediate operand is the byte fetched, and the addresses are computed as numbers. -/
theorem operandsAreAssembled : Obligations.OperandsAreAssembled := by
  unfold Obligations.OperandsAreAssembled
  exact ⟨fun _ hpc => ⟨_, execLdaImm_eq_next hpc, loadA_a _ _⟩,
    fun zp => ⟨zeroPageAddress_eq_concatBytes zp, zeroPageAddress_toNat zp⟩,
    zeroPageXAddress_toNat,
    fun hi lo => ⟨concatBytes_toNat hi lo, highByte_concatBytes hi lo, lowByte_concatBytes hi lo⟩⟩

end Sys2Proof.Machine
end

section
/-! What a step costs and what a budget buys (spec/40_engine_fetch_dispatch.md R90 to R95): the cycles of a completed
step, the same step under another budget, and the run loop as a recursion on whole steps. -/

namespace Sys2Proof.Machine

/-! ## The cycles column -/

@[simp] theorem Instr.baseCycles?_ldaImm : Instr.ldaImm.baseCycles? = some 2 := rfl
@[simp] theorem Instr.baseCycles?_ldaZp : Instr.ldaZp.baseCycles? = some 3 := rfl
@[simp] theorem Instr.baseCycles?_ldaZpx : Instr.ldaZpx.baseCycles? = some 4 := rfl
@[simp] theorem Instr.baseCycles?_jsrAbs : Instr.jsrAbs.baseCycles? = some 6 := rfl

theorem Instr.baseCycles?_bounds {i : Instr} {n : Nat} (h : i.baseCycles? = some n) : 0 < n ∧ n ≤ 6 := by
  cases i with
  | unimplemented b => simp at h
  | ldaImm | ldaZp | ldaZpx | jsrAbs =>
    obtain rfl := by simpa using h
    decide

/-! ## A step that completes, and one that raises -/

section
variable {s s' : State} (h : engineStep s = .next s')
include h

/-- R90: only the rows of completed instructions end Running, each with the cycles of its table row. -/
theorem engineStep_baseCycles (hrun : s'.run = .running) :
    (decode (s.mem.read s.pc)).baseCycles? = some s'.icyc.toNat := by
  cases engineStep_eq_next_iff.mp h with
  | fetchFails | jsrFull | jsrHalf | unimplemented => cases hrun
  | ldaImm hdec | ldaZp hdec | ldaZpx hdec | jsr hdec =>
    rw [hdec]
    rfl

theorem engineStep_icyc_bounds (hrun : s'.run = .running) : 0 < s'.icyc.toNat ∧ s'.icyc.toNat ≤ 6 :=
  Instr.baseCycles?_bounds (engineStep_baseCycles h hrun)

/-- R146: a step that completes pays at least one cycle. -/
theorem engineStep_budget_lt (hb : s.budget ≠ 0) (hrun : s'.run = .running) :
    s'.budget.toNat < s.budget.toNat := by
  obtain ⟨hpos, -⟩ := engineStep_icyc_bounds h hrun
  rw [engineStep_budget h, budgetAfter_toNat]
  bv_omega

/-- A step that completes leaves the record of the run alone. -/
theorem engineStep_cause_info (hrun : s'.run = .running) : s'.cause = s.cause ∧ s'.info = s.info := by
  cases engineStep_eq_next_iff.mp h with
  | fetchFails | jsrFull | jsrHalf | unimplemented => cases hrun
  | ldaImm | ldaZp | ldaZpx | jsr => exact ⟨rfl, rfl⟩

/-- No failure is recorded as BudgetExhausted: only the loop test is. -/
theorem engineStep_cause_ne_budgetExhausted (hrun : s.run = .running) (hhalt : s'.run = .halted) :
    s'.cause ≠ .budgetExhausted := by
  cases engineStep_eq_next_iff.mp h with
  | fetchFails | jsrFull | jsrHalf | unimplemented => nofun
  | ldaImm | ldaZp | ldaZpx | jsr => cases hrun.symm.trans hhalt

/-- R91: no row reads BUDGET; each pays its cycles from what it finds there. -/
theorem engineStep_withBudget (b : Budget) :
    engineStep { s with budget := b } = .next { s' with budget := budgetAfter b s'.icyc.toNat } := by
  apply StepRow.engineStep_eq
  cases engineStep_eq_next_iff.mp h with
  | fetchFails k hk hpc =>
    have hk3 := Instr.length_le (decode (s.mem.read s.pc))
    have hicyc : (s.fetchFailed k).icyc.toNat = k := by
      rw [State.fetchFailed_icyc, BitVec.toNat_ofNat]
      omega
    rw [hicyc]
    exact .fetchFails k hk hpc
  | ldaImm hdec hfit => exact .ldaImm hdec hfit
  | ldaZp hdec hfit => exact .ldaZp hdec hfit
  | ldaZpx hdec hfit => exact .ldaZpx hdec hfit
  | jsrFull hdec hfit hsp => exact .jsrFull hdec hfit hsp
  | jsrHalf hdec hfit hsp => exact .jsrHalf hdec hfit hsp
  | jsr hdec hfit hsp => exact .jsr hdec hfit hsp
  | unimplemented b hdec hfit => exact .unimplemented b hdec hfit

end

/-! ## The machine's steps under a budget -/

theorem loopTest_of_exhausted {s : State} (hrun : s.run = .running) (hb : s.budget = 0) :
    loopTest s = exhausted s :=
  if_pos ⟨hrun, hb⟩

/-- R145: once Halted, with no act of the host pending, nothing changes. -/
theorem core_run_of_halted {s : State} (hrun : s.run = .halted) (hmoves : s.hostMoves = []) (k : Nat) :
    core.run k s = .next s := by
  induction k with
  | zero => exact core_run_zero s
  | succ k ih =>
    have hstep := step_halted hrun
    rw [hostTurn_nil hmoves] at hstep
    exact (core_run_succ hstep k).trans ih

/-- What `k + 1` completed steps are: one completed step, and `k` from where it ends. -/
theorem completedSteps_succ_inv {k c : Nat} {s t : State} (h : completedSteps (k + 1) s = some (t, c)) :
    ∃ s' c', engineStep s = .next s' ∧ s'.run = .running ∧ completedSteps k s' = some (t, c') ∧
      c = s'.icyc.toNat + c' := by
  obtain ⟨s', hrow⟩ := exists_stepRow s
  have hstep := hrow.engineStep_eq
  simp only [completedSteps, hstep] at h
  split at h
  · next hrun =>
    obtain ⟨⟨t', c'⟩, hrest, hpair⟩ := Option.map_eq_some_iff.mp h
    obtain ⟨rfl, rfl⟩ := Prod.mk.inj hpair
    exact ⟨s', c', hstep, hrun, hrest, rfl⟩
  · cases h

theorem engineStep_of_fetchOpcode_raised {s t : State} (h : fetchOpcode s = .raised t) :
    engineStep s = .next t := by
  simp only [engineStep, h]

/-! ## The run loop -/

theorem executeLoop_of_exhausted {s : State} (hb : s.budget = 0) (k : Nat) :
    executeLoop k s = .next (exhausted s) := by
  cases k with
  | zero => rfl
  | succ k => rw [executeLoop, if_pos hb]

theorem executeLoop_succ {s t : State} (hb : s.budget ≠ 0) (h : engineStep s = .next t) (k : Nat) :
    executeLoop (k + 1) s = if t.run = .halted then .next t else executeLoop k t := by
  simp only [executeLoop, if_neg hb, h]

/-- R146: any two numbers of rounds that the budget can fill do the same. -/
theorem executeLoop_rounds {j k : Nat} {s : State} (hj : s.budget.toNat ≤ j) (hk : s.budget.toNat ≤ k) :
    executeLoop j s = executeLoop k s := by
  induction j generalizing k s with
  | zero =>
    have hb : s.budget = 0 := by bv_omega
    rw [executeLoop_of_exhausted hb, executeLoop_of_exhausted hb]
  | succ j ih =>
    by_cases hb : s.budget = 0
    · rw [executeLoop_of_exhausted hb, executeLoop_of_exhausted hb]
    · obtain ⟨k, rfl⟩ : ∃ k', k = k' + 1 := Nat.exists_eq_succ_of_ne_zero (by bv_omega)
      obtain ⟨t, hrow⟩ := exists_stepRow s
      have hstep := hrow.engineStep_eq
      rw [executeLoop_succ hb hstep, executeLoop_succ hb hstep]
      cases hrun : t.run with
      | halted => rfl
      | running =>
        have hlt := engineStep_budget_lt hstep hb hrun
        exact ih (by omega) (by omega)

/-- A run with a cycle to spend takes its first step, and the rounds left go on from there. -/
theorem execute_of_ne_zero {b : Budget} {s t : State} (hb : b ≠ 0)
    (h : engineStep (beginRun b s) = .next t) :
    execute b s = if t.run = .halted then .next t else executeLoop (b.toNat - 1) t := by
  obtain ⟨n, hn⟩ : ∃ n, b.toNat = n + 1 := Nat.exists_eq_succ_of_ne_zero (by bv_omega)
  rw [execute, hn, executeLoop_succ (s := beginRun b s) hb h, Nat.add_sub_cancel]

/-- A run whose first step completes goes on as a run from there with the budget that is left. -/
theorem execute_of_running {b : Budget} {s t : State} (hb : b ≠ 0) (h : engineStep (beginRun b s) = .next t)
    (hrun : t.run = .running) : execute b s = execute t.budget t := by
  have hlt : t.budget.toNat < b.toNat := engineStep_budget_lt h hb hrun
  obtain ⟨hcause, hinfo⟩ : t.cause = .none ∧ t.info = 0 := engineStep_cause_info h hrun
  have hbegin : beginRun t.budget t = t := by
    rw [beginRun, ← hcause, ← hinfo, ← hrun]
  rw [execute_of_ne_zero hb h, if_neg (by simp [hrun]), execute, hbegin]
  exact executeLoop_rounds (by omega) (Nat.le_refl _)

/-- A run begun with the cycles of its first step on top of `b` goes on with `b`. -/
theorem exists_execute_eq_after_step {b₀ b : Budget} {s t : State}
    (h : engineStep (beginRun b₀ s) = .next t) (hrun : t.run = .running)
    (hfit : b.toNat + t.icyc.toNat < 2 ^ 32) :
    ∃ b₁ : Budget, b₁.toNat = b.toNat + t.icyc.toNat ∧ execute b₁ s = execute b t := by
  obtain ⟨b₁, hsum⟩ : ∃ b₁ : Budget, b₁.toNat = b.toNat + t.icyc.toNat :=
    ⟨BitVec.ofNatLT _ hfit, BitVec.toNat_ofNatLT _ hfit⟩
  have hpaid : budgetAfter b₁ t.icyc.toNat = b := by
    apply BitVec.eq_of_toNat_eq
    rw [budgetAfter_toNat, hsum, Nat.add_sub_cancel]
  have hstep : engineStep (beginRun b₁ s) = .next _ := engineStep_withBudget h b₁
  rw [hpaid] at hstep
  obtain ⟨hpos, -⟩ := engineStep_icyc_bounds h hrun
  exact ⟨b₁, hsum, execute_of_running (by bv_omega) hstep hrun⟩

/-- R95: a run that spent its budget `b`, continued with `b'`, is one run with all the cycles of its steps and `b'`.
Those cycles are at most `b + 5`, since the last step began with a cycle left, and none where `b` is 0. -/
theorem execute_continued {b b' : Budget} {s s1 : State} (hfit : b.toNat + b'.toNat + 5 < 2 ^ 32)
    (h : execute b s = .next s1) (hcause : s1.cause = .budgetExhausted) :
    ∃ b'' : Budget, (b.toNat = 0 → b''.toNat = b'.toNat) ∧ b''.toNat ≤ b.toNat + b'.toNat + 5 ∧
      execute b'' s = execute b' s1 := by
  induction hn : b.toNat using Nat.strongRecOn generalizing b s with
  | _ n ih =>
    subst hn
    by_cases hb : b = 0
    · subst hb
      obtain rfl : exhausted (beginRun 0 s) = s1 := Host.Outcome.next.inj h
      exact ⟨b', fun _ => rfl, by omega, rfl⟩
    · obtain ⟨t, hrow⟩ := exists_stepRow (beginRun b s)
      have hstep := hrow.engineStep_eq
      cases hrun : t.run with
      | halted =>
        rw [execute_of_ne_zero hb hstep, if_pos hrun] at h
        obtain rfl : t = s1 := Host.Outcome.next.inj h
        exact absurd hcause (engineStep_cause_ne_budgetExhausted hstep rfl hrun)
      | running =>
        have hlt : t.budget.toNat < b.toNat := engineStep_budget_lt hstep hb hrun
        have hpaid : t.budget.toNat = b.toNat - t.icyc.toNat := by
          rw [engineStep_budget hstep, budgetAfter_toNat]
          rfl
        obtain ⟨-, hcycles⟩ := engineStep_icyc_bounds hstep hrun
        rw [execute_of_running hb hstep hrun] at h
        obtain ⟨b1, hzero, hle, hcont⟩ := ih _ hlt (by omega) h rfl
        obtain ⟨b'', hsum, hexec⟩ := exists_execute_eq_after_step (b := b1) hstep hrun (by omega)
        exact ⟨b'', by omega, by omega, hexec.trans hcont⟩

/-! ## The acts and the reads of the host -/

theorem startRun_of_ne_zero {b : Budget} (s : State) (hb : b ≠ 0) : startRun b s = beginRun b s :=
  loopTest_of_budget hb

theorem startRun_zero (s : State) : startRun 0 s = exhausted (beginRun 0 s) :=
  loopTest_of_exhausted rfl rfl

theorem hostRead_of_running (r : HostReg) {s : State} (h : s.run = .running) : hostRead r s = none := by
  simp only [hostRead, h]

theorem Memory.read_nil (addr : Address) : Memory.read [] addr = 0x00 := rfl

end Sys2Proof.Machine
end

section
/-! The statements on fetch, dispatch and the budget (spec/40_engine_fetch_dispatch.md). -/

namespace Sys2Proof.Machine

/-- Settles O34: the rows that end Running carry the cycles of the decode table. -/
theorem completedStepCyclesAreTable : Obligations.CompletedStepCyclesAreTable := by
  unfold Obligations.CompletedStepCyclesAreTable
  exact fun _ _ _ h hrun => engineStep_baseCycles h hrun

/-- Settles O40: no row reads BUDGET. -/
theorem budgetNeverCutsAStep : Obligations.BudgetNeverCutsAStep := by
  unfold Obligations.BudgetNeverCutsAStep
  exact fun _ _ b h => engineStep_withBudget h b

/-- Settles O50: the host's turn is the act at the head of the queue; each clause reads off that act's effect. -/
theorem hostWritesAndReadsWhileHalted : Obligations.HostWritesAndReadsWhileHalted := by
  unfold Obligations.HostWritesAndReadsWhileHalted
  refine ⟨fun s m rest hrun hmoves => ?_, fun s hrun => ?_, fun r s hrun => hostRead_of_running r hrun⟩
  · have hstep := step_halted hrun
    rw [hostTurn_cons hmoves] at hstep
    refine ⟨_, hstep, ?pc, ?sp, ?a, ?x, ?y, ?status, ?flag, ?cell, ?initMem, ?construct, ?start, ?startZero⟩
    case pc | sp | a | x | y | status | construct =>
      rintro v rfl
      rfl
    case flag =>
      rintro f v rfl
      refine ⟨?_, fun g hne => ?_, rfl⟩
      · exact (flagOf_withFlag f f v s.p).trans (if_pos rfl)
      · exact (flagOf_withFlag f g v s.p).trans (if_neg hne.symm)
    case cell =>
      rintro addr v rfl
      exact ⟨Memory.read_write_same _ _ _, fun other hne => Memory.read_write_of_ne _ _ hne, rfl⟩
    case initMem =>
      rintro rfl
      exact ⟨Memory.read_nil, rfl⟩
    case start =>
      rintro b rfl hb
      exact startRun_of_ne_zero _ hb
    case startZero =>
      rintro rfl
      exact (startRun_zero _).trans (by rw [exhausted, beginRun, hrun])
  · simp only [hostRead, hrun, true_and, implies_true]
    intro f
    cases flagOf f s.p <;> rfl

/-- Settles O59, by induction on the number of steps: a step that leaves budget goes on as the induction has it, and one
that spends it ends the run. -/
theorem budgetDecidesHowManySteps : Obligations.BudgetDecidesHowManySteps := by
  unfold Obligations.BudgetDecidesHowManySteps
  intro k
  induction k with
  | zero =>
    intro s t c hrun hb hmoves hsteps
    obtain ⟨rfl, rfl⟩ := Prod.mk.inj (Option.some.inj hsteps)
    have hpos : 0 < s.budget.toNat := by bv_omega
    exact ⟨s, core_run_zero s, by simp [hrun, hpos], fun _ => rfl, fun hle => by omega⟩
  | succ k ih =>
    intro s t c hrun hb hmoves hsteps
    obtain ⟨s1, c1, hstep, hrun1, hrest, rfl⟩ := completedSteps_succ_inv hsteps
    have hmoves1 : s1.hostMoves = [] := (engineStep_hostMoves hstep).trans hmoves
    have hpaid : s1.budget.toNat = s.budget.toNat - s1.icyc.toNat := by
      rw [engineStep_budget hstep, budgetAfter_toNat]
    have hmachine : step s = .next (loopTest s1) := by
      rw [step_running hrun hb, hstep, thenLoopTest]
    rw [core_run_succ hmachine]
    by_cases hb1 : s1.budget = 0
    · have hspent : s.budget.toNat ≤ s1.icyc.toNat + c1 := by bv_omega
      rw [loopTest_of_exhausted hrun1 hb1]
      exact ⟨exhausted s1, core_run_of_halted (s := exhausted s1) rfl hmoves1 k,
        iff_of_false nofun (Nat.not_lt.mpr hspent), fun hlt => absurd hlt (Nat.not_lt.mpr hspent),
        fun _ => ⟨rfl, hb1⟩⟩
    · have hiff : s1.icyc.toNat + c1 < s.budget.toNat ↔ c1 < s1.budget.toNat := by omega
      rw [loopTest_of_budget hb1, hiff, ← Nat.not_lt, hiff, Nat.not_lt]
      exact ih s1 t c1 hrun1 hb1 hmoves1 hrest

/-- Settles O60, by `execute_continued`. -/
theorem splitRunEqualsSingleRun : Obligations.SplitRunEqualsSingleRun := by
  unfold Obligations.SplitRunEqualsSingleRun
  intro s s1 s2 b b' hfit h1 hcause h2
  obtain ⟨b'', -, -, hcont⟩ := execute_continued hfit h1 hcause
  exact ⟨b'', hcont.trans h2⟩

/-- Settles O13: the two accesses with the charge written out, and what a cell reads as after a write. -/
theorem dataAccessIsCharged : Obligations.DataAccessIsCharged := by
  unfold Obligations.DataAccessIsCharged
  refine ⟨fun addr s => ?_, fun addr v s => ⟨Memory.read_write_same _ _ _, fun other hne =>
    Memory.read_write_of_ne _ _ hne, ?_⟩⟩
  · rw [read8_eq, charge_eq]
    rfl
  · rw [write8_eq, charge_eq]
    rfl

/-- Settles O15: Z and N are computed from the operand, and bit 7 of 0 is clear. -/
theorem recomputeZeroAndNegative : Obligations.RecomputeZeroAndNegative := by
  unfold Obligations.RecomputeZeroAndNegative
  intro v s
  have hz : (setZN v s).p.z = true ↔ v = 0x00 := beq_iff_eq
  refine ⟨hz, rfl, ?_, rfl, rfl, rfl, rfl, rfl, fun _ _ => rfl, rfl⟩
  rintro ⟨hzero, hneg⟩
  obtain rfl := hz.mp hzero
  cases hneg

/-- Settles O25: the opcode fetch, the handler of the decoded byte, and the loop test after them. -/
theorem stepRunsDecodedInstruction : Obligations.StepRunsDecodedInstruction := by
  unfold Obligations.StepRunsDecodedInstruction
  refine fun s => ⟨fun hpc => engineStep_of_lt (by bv_omega), fun t hfetch => ?_, fun hrun hb => ?_⟩
  · exact engineStep_of_fetchOpcode_raised hfetch
  · obtain ⟨t, hrow⟩ := exists_stepRow s
    have hstep := hrow.engineStep_eq
    refine ⟨t, hstep, ?_⟩
    rw [step_running hrun hb, hstep]
    rfl

end Sys2Proof.Machine
end

section
/-! The LDA handlers from their entry, and an LDA's step whose fetch fails (spec/41_lda.md R100 to R102, D3). -/

namespace Sys2Proof

theorem decode_eq_ldaImm_iff {b : DataByte} : decode b = .ldaImm ↔ b = 0xA9 := by
  simp [decode_eq_iff, Instr.wf, encode]

end Sys2Proof

namespace Sys2Proof.Machine

/-! ## The indexed address -/

/-- R62 (c), the address as a number. -/
theorem zeroPageXAddress_eq_ofNat (zp x : DataByte) :
    zeroPageXAddress zp x = BitVec.ofNat 16 ((zp.toNat + x.toNat) % 256) := by
  rw [← zeroPageXAddress_toNat, BitVec.ofNat_toNat, BitVec.setWidth_eq]

/-! ## A handler that completes -/

theorem fetch8_ok_update {s : State} (h : s.pc ≠ 0xFFFF) :
    fetch8 s = .ok (s.mem.read s.pc)
      { s with
        pc := s.pc + 1, icyc := s.icyc + 1, budget := budgetAfter s.budget 1,
        bus := s.bus ++ [.read s.pc (s.mem.read s.pc)] } := by
  rw [fetch8_eq_ok h, charge_eq]
  rfl

/-- The data read that the two zero-page forms end with, and its load into A. -/
theorem loadA_read8_update (ea : Address) (s : State) :
    loadA (read8 ea s).1 (read8 ea s).2 =
      { s with
        a := s.mem.read ea, p := { s.p with z := s.mem.read ea == 0x00, n := (s.mem.read ea).getLsbD 7 },
        icyc := s.icyc + 1, budget := budgetAfter s.budget 1,
        bus := s.bus ++ [.read ea (s.mem.read ea)] } := by
  rw [read8_eq, charge_eq]
  rfl

/-- `s` after an LDA handler entered there has loaded `v`: `n` cycles charged and `ops` at the port. -/
def State.ldaDone (v : DataByte) (n : Nat) (ops : List BusOp) (s : State) : State :=
  { s with
    pc := s.pc + 1, a := v, p := { s.p with z := v == 0x00, n := v.getLsbD 7 },
    icyc := s.icyc + BitVec.ofNat 3 n, budget := budgetAfter s.budget n, bus := s.bus ++ ops }

theorem execLdaImm_eq_ldaDone {s : State} (h : s.pc ≠ 0xFFFF) :
    execLdaImm s = .next (s.ldaDone (s.mem.read s.pc) 1 [.read s.pc (s.mem.read s.pc)]) := by
  rw [execLdaImm_eq_next h, charge_eq]
  rfl

theorem execLdaZp_eq_ldaDone {s : State} (h : s.pc ≠ 0xFFFF) :
    execLdaZp s = .next (s.ldaDone (s.mem.read (zeroPageAddress (s.mem.read s.pc))) 2
      [.read s.pc (s.mem.read s.pc), .read (zeroPageAddress (s.mem.read s.pc))
        (s.mem.read (zeroPageAddress (s.mem.read s.pc)))]) := by
  simp [execLdaZp, fetch8_ok_update h, loadA_read8_update, State.ldaDone, budgetAfter_budgetAfter,
    BitVec.add_assoc]

/-- The index computation is one cycle more (R102). -/
theorem execLdaZpx_eq_ldaDone {s : State} (h : s.pc ≠ 0xFFFF) :
    execLdaZpx s = .next (s.ldaDone (s.mem.read (zeroPageXAddress (s.mem.read s.pc) s.x)) 3
      [.read s.pc (s.mem.read s.pc), .read (zeroPageXAddress (s.mem.read s.pc) s.x)
        (s.mem.read (zeroPageXAddress (s.mem.read s.pc) s.x))]) := by
  simp [execLdaZpx, fetch8_ok_update h, loadA_read8_update, charge_eq, State.ldaDone,
    budgetAfter_budgetAfter, BitVec.add_assoc]

theorem exists_exec_eq_ldaDone {i : Instr} {s : State} (hkind : i.kind = .lda) (hpc : s.pc ≠ 0xFFFF) :
    ∃ v n ops, exec i s = .next (s.ldaDone v n ops) := by
  cases i with
  | ldaImm => exact ⟨_, _, _, execLdaImm_eq_ldaDone hpc⟩
  | ldaZp => exact ⟨_, _, _, execLdaZp_eq_ldaDone hpc⟩
  | ldaZpx => exact ⟨_, _, _, execLdaZpx_eq_ldaDone hpc⟩
  | jsrAbs | unimplemented => cases hkind

/-- What an LDA handler can do: fail its operand fetch, or load a byte. -/
theorem exec_lda_inv {i : Instr} {s s' : State} (hkind : i.kind = .lda) (h : exec i s = .next s') :
    (s.pc = 0xFFFF ∧ s' = takeFailure (.outOfBoundsAddress 0x10000)
      (s.logBus (.read 0xFFFF (s.mem.read 0xFFFF)))) ∨
    (s.pc ≠ 0xFFFF ∧ ∃ v n ops, s' = s.ldaDone v n ops) := by
  by_cases hpc : s.pc = 0xFFFF
  · have hlen : 2 ≤ i.length := Nat.le_of_eq (Instr.length_of_kind_lda hkind).symm
    rw [exec_of_fetch8_raised hlen (fetch8_eq_raised hpc)] at h
    exact .inl ⟨hpc, (Host.Outcome.next.inj h).symm⟩
  · obtain ⟨v, n, ops, hdone⟩ := exists_exec_eq_ldaDone hkind hpc
    exact .inr ⟨hpc, v, n, ops, Host.Outcome.next.inj (h.symm.trans hdone)⟩

/-! ## A step whose fetch fails -/

/-- The opcode fetch at the last address fails (D3). -/
theorem engineStep_of_pc_last {s : State} (hpc : s.pc = 0xFFFF) :
    engineStep s = .next
      { s with
        icyc := 0, run := .halted, cause := .outOfBoundsAddress, info := 0x10000,
        bus := [.read 0xFFFF (s.mem.read s.pc)] } := by
  rw [engineStep_of_eq (by simp [hpc])]
  simp [State.fetchFailed, State.fetched, fetches, budgetAfter_zero, hpc]

/-- The fetch of the first operand byte at the last address fails, with the opcode fetch charged (D3, D25). -/
theorem engineStep_of_pc_last_but_one {s : State} (hlen : 2 ≤ (decode (s.mem.read s.pc)).length)
    (hpc : s.pc = 0xFFFE) :
    engineStep s = .next
      { s with
        pc := 0xFFFF, icyc := 1, budget := budgetAfter s.budget 1, run := .halted,
        cause := .outOfBoundsAddress, info := 0x10000,
        bus := [.read 0xFFFE (s.mem.read s.pc), .read 0xFFFF (s.mem.read (s.pc + 1))] } := by
  rw [(StepRow.fetchFails 1 hlen (by simp [hpc])).engineStep_eq]
  simp [State.fetchFailed, State.fetched, fetches, hpc]

end Sys2Proof.Machine
end

section
/-! The statements on the three LDA forms (spec/41_lda.md). -/

namespace Sys2Proof.Machine

/-- Settles O17: the operand fetch completes, and its byte is loaded. -/
theorem ldaImmediateCompletes : Obligations.LdaImmediateCompletes := by
  unfold Obligations.LdaImmediateCompletes
  exact fun _ hpc => execLdaImm_eq_ldaDone hpc

/-- Settles O18: the operand fetch completes, and the cell at its byte is loaded. -/
theorem ldaZeroPageCompletes : Obligations.LdaZeroPageCompletes := by
  unfold Obligations.LdaZeroPageCompletes
  exact fun _ hpc => execLdaZp_eq_ldaDone hpc

/-- Settles O19: the operand fetch completes, and the cell at the 8-bit sum of its byte and X is loaded. -/
theorem ldaZeroPageXCompletes : Obligations.LdaZeroPageXCompletes := by
  unfold Obligations.LdaZeroPageXCompletes
  exact fun _ hpc => execLdaZpx_eq_ldaDone hpc

/-- Settles O22: a handler either fails its operand fetch or loads a byte, and both states show their frame. -/
theorem ldaFrame : Obligations.LdaFrame := by
  unfold Obligations.LdaFrame
  intro i s s' hi h
  have hkind : i.kind = .lda := by obtain rfl | rfl | rfl := hi <;> rfl
  obtain ⟨hpc, rfl⟩ | ⟨hpc, v, n, ops, rfl⟩ := exec_lda_inv hkind h
  · exact ⟨rfl, rfl, rfl, rfl, rfl, rfl, rfl, rfl, rfl, fun _ => rfl, fun hne => absurd hpc hne,
      fun _ => ⟨rfl, rfl, rfl, rfl, rfl⟩⟩
  · exact ⟨rfl, rfl, rfl, rfl, rfl, rfl, rfl, rfl, rfl, fun _ => rfl, fun _ => ⟨rfl, rfl, rfl⟩,
      fun heq => absurd heq hpc⟩

/-- Settles O26: the row of the step where both fetches complete, and the two fetches that can fail. -/
theorem ldaImmediateStep : Obligations.LdaImmediateStep := by
  unfold Obligations.LdaImmediateStep
  intro s hop
  have hdec := decode_eq_ldaImm_iff.mpr hop
  rw [← hop]
  exact ⟨fun hpc => (StepRow.ldaImm hdec (by bv_omega)).engineStep_eq,
    engineStep_of_pc_last_but_one (by simp [hdec]), engineStep_of_pc_last⟩

/-- Settles O27: the row of the step where both fetches complete, and the two fetches that can fail. -/
theorem ldaZeroPageStep : Obligations.LdaZeroPageStep := by
  unfold Obligations.LdaZeroPageStep
  intro s hop
  have hdec := decode_eq_ldaZp_iff.mpr hop
  rw [← hop]
  exact ⟨fun hpc => (StepRow.ldaZp hdec (by bv_omega)).engineStep_eq,
    engineStep_of_pc_last_but_one (by simp [hdec]), engineStep_of_pc_last⟩

/-- Settles O28: as for Zero Page, at the address of the 8-bit sum. -/
theorem ldaZeroPageXStep : Obligations.LdaZeroPageXStep := by
  unfold Obligations.LdaZeroPageXStep
  intro s hop
  have hdec := decode_eq_ldaZpx_iff.mpr hop
  dsimp only
  rw [← hop, ← zeroPageXAddress_eq_ofNat]
  exact ⟨fun hpc => (StepRow.ldaZpx hdec (by bv_omega)).engineStep_eq,
    engineStep_of_pc_last_but_one (by simp [hdec]), engineStep_of_pc_last⟩

/-- Settles O29: an LDA completes exactly from PC at most 0xFFFD; what it then leaves in A, Z and N, and that it writes
none of them otherwise. -/
theorem ldaLoadsTheByteRead : Obligations.LdaLoadsTheByteRead := by
  unfold Obligations.LdaLoadsTheByteRead
  refine fun s s' hkind h => ⟨fun hpc => ?_, fun hpc => ?_⟩
  · have hlda : LdaCompletes s := ⟨hkind, hpc⟩
    obtain ⟨addr, hlast⟩ := engineStep_bus_getLast?_of_lda h hlda
    obtain ⟨hz, hn⟩ := engineStep_zn_of_lda h hlda
    exact ⟨addr, hlast, by simp [hz], hn⟩
  · have hlda : ¬ LdaCompletes s := fun ⟨_, hle⟩ => BitVec.not_le.mpr hpc hle
    exact ⟨engineStep_a_of_not_lda h hlda, engineStep_p_of_not_lda h hlda⟩

end Sys2Proof.Machine
end

section
/-! The JSR handler from its entry, row by row (spec/42_jsr.md R110, R112), and a step whose third fetch fails (D3). -/

namespace Sys2Proof.Machine

/-! ## The operand fetch -/

/-- `s` after the two fetches of an address at PC, 3 cycles charged with its assembling (R84). -/
def State.addressFetched (s : State) : State :=
  { s with
    pc := s.pc + 2, icyc := s.icyc + 3, budget := budgetAfter s.budget 3,
    bus := s.bus ++ [.read s.pc (s.mem.read s.pc), .read (s.pc + 1) (s.mem.read (s.pc + 1))] }

@[simp] theorem State.addressFetched_pc (s : State) : s.addressFetched.pc = s.pc + 2 := rfl
@[simp] theorem State.addressFetched_sp (s : State) : s.addressFetched.sp = s.sp := rfl

theorem fetchAddr_eq_ok {s : State} (h : s.pc ≤ 0xFFFD) :
    fetchAddr s = .ok (concatBytes (s.mem.read (s.pc + 1)) (s.mem.read s.pc)) s.addressFetched := by
  have hlow : s.pc ≠ 0xFFFF#16 := by bv_omega
  have hhigh : s.pc + 1#16 ≠ 0xFFFF#16 := by bv_omega
  simp [fetchAddr, fetch8_ok_update, hlow, hhigh, charge_eq, State.addressFetched, budgetAfter_budgetAfter,
    BitVec.add_assoc]

theorem fetchAddr_eq_raised_of_low {s : State} (h : s.pc = 0xFFFF) :
    fetchAddr s = .raised (takeFailure (.outOfBoundsAddress 0x10000)
      (s.logBus (.read 0xFFFF (s.mem.read 0xFFFF)))) := by
  rw [fetchAddr, fetch8_eq_raised h, Micro.bind_raised]

theorem fetchAddr_eq_raised_of_high {s : State} (h : s.pc = 0xFFFE) :
    fetchAddr s = .raised (takeFailure (.outOfBoundsAddress 0x10000)
      { s with
        pc := 0xFFFF, icyc := s.icyc + 1, budget := budgetAfter s.budget 1,
        bus := s.bus ++ [.read 0xFFFE (s.mem.read 0xFFFE), .read 0xFFFF (s.mem.read 0xFFFF)] }) := by
  simp [fetchAddr, fetch8_ok_update, fetch8_eq_raised, h, State.logBus]

/-! ## The handler -/

/-- JSR past its operand fetch: the two pushes and the jump (R110, R111). -/
theorem execJsrAbs_of_addressFetched {s : State} (h : s.pc ≤ 0xFFFD) :
    execJsrAbs s =
      ((push8 (highByte (s.pc + 1)) s.addressFetched).bind fun _ t =>
        (push8 (lowByte (s.pc + 1)) t).bind fun _ t =>
          .ok () (t.setPc (concatBytes (s.mem.read (s.pc + 1)) (s.mem.read s.pc)))).finish := by
  have hret : s.addressFetched.pc - 1 = s.pc + 1 := by rw [State.addressFetched_pc]; bv_omega
  simp only [execJsrAbs, fetchAddr_eq_ok h, Micro.bind_ok, hret]

/-- `JsrRow s s'`: JSR's handler, entered at `s`, ends at `s'`; one constructor per row of R112 that is reached past
the opcode fetch. -/
inductive JsrRow (s : State) : State → Prop
  /-- The fetch of the target's low byte fails (D3, D25). -/
  | lowFetchFails (hpc : s.pc = 0xFFFF) :
      JsrRow s (takeFailure (.outOfBoundsAddress 0x10000) (s.logBus (.read 0xFFFF (s.mem.read 0xFFFF))))
  /-- The fetch of the target's high byte fails (D3, D25). -/
  | highFetchFails (hpc : s.pc = 0xFFFE) :
      JsrRow s (takeFailure (.outOfBoundsAddress 0x10000)
        { s with
          pc := 0xFFFF, icyc := s.icyc + 1, budget := budgetAfter s.budget 1,
          bus := s.bus ++ [.read 0xFFFE (s.mem.read 0xFFFE), .read 0xFFFF (s.mem.read 0xFFFF)] })
  /-- The first push fails, its byte written (D11). -/
  | firstPushFails (hpc : s.pc ≤ 0xFFFD) (hsp : s.sp = 0) :
      JsrRow s (takeFailure .stackOverflow (write8 (stackAddress s.sp) (highByte (s.pc + 1)) s.addressFetched))
  /-- The second push fails, both bytes written (D11). -/
  | secondPushFails (hpc : s.pc ≤ 0xFFFD) (hsp : s.sp = 1) :
      JsrRow s (takeFailure .stackOverflow (write8 (stackAddress (s.sp - 1)) (lowByte (s.pc + 1))
        ((write8 (stackAddress s.sp) (highByte (s.pc + 1)) s.addressFetched).setSp (s.sp - 1))))
  /-- R110. -/
  | completes (hpc : s.pc ≤ 0xFFFD) (hsp : 2 ≤ s.sp) :
      JsrRow s
        { s with
          pc := concatBytes (s.mem.read (s.pc + 1)) (s.mem.read s.pc), sp := s.sp - 2,
          mem := (s.mem.write (stackAddress s.sp) (highByte (s.pc + 1))).write (stackAddress (s.sp - 1))
            (lowByte (s.pc + 1)),
          icyc := s.icyc + 5, budget := budgetAfter s.budget 5,
          bus := s.bus ++
            [.read s.pc (s.mem.read s.pc), .read (s.pc + 1) (s.mem.read (s.pc + 1)),
              .write (stackAddress s.sp) (highByte (s.pc + 1)),
              .write (stackAddress (s.sp - 1)) (lowByte (s.pc + 1))] }

theorem exists_jsrRow (s : State) : ∃ s', JsrRow s s' := by
  by_cases hlow : s.pc = 0xFFFF
  · exact ⟨_, .lowFetchFails hlow⟩
  by_cases hhigh : s.pc = 0xFFFE
  · exact ⟨_, .highFetchFails hhigh⟩
  have hpc : s.pc ≤ 0xFFFD := by bv_omega
  by_cases h0 : s.sp = 0
  · exact ⟨_, .firstPushFails hpc h0⟩
  by_cases h1 : s.sp = 1
  · exact ⟨_, .secondPushFails hpc h1⟩
  · exact ⟨_, .completes hpc (by bv_omega)⟩

theorem JsrRow.exec_eq {s s' : State} (h : JsrRow s s') : exec .jsrAbs s = .next s' := by
  rw [exec_jsrAbs]
  cases h with
  | lowFetchFails hpc => rw [execJsrAbs, fetchAddr_eq_raised_of_low hpc]; rfl
  | highFetchFails hpc => rw [execJsrAbs, fetchAddr_eq_raised_of_high hpc]; rfl
  | firstPushFails hpc hsp =>
    rw [execJsrAbs_of_addressFetched hpc]
    simp [push8_eq_raised, hsp]
  | secondPushFails hpc hsp =>
    rw [execJsrAbs_of_addressFetched hpc, push8_eq_ok (by simp [hsp]), Micro.bind_ok,
      push8_eq_raised (by simp [hsp])]
    simp [hsp]
  | completes hpc hsp =>
    have hfirst : s.sp ≠ 0#8 := by bv_omega
    have hsecond : s.sp - 1#8 ≠ 0#8 := by bv_omega
    rw [execJsrAbs_of_addressFetched hpc]
    simp [push8_ok_update, State.addressFetched, hfirst, hsecond, budgetAfter_budgetAfter, BitVec.sub_sub,
      BitVec.add_assoc, State.setPc]

/-- The rows are exactly the handler. -/
theorem exec_jsrAbs_eq_next_iff {s s' : State} : exec .jsrAbs s = .next s' ↔ JsrRow s s' := by
  refine ⟨fun h => ?_, JsrRow.exec_eq⟩
  obtain ⟨t, ht⟩ := exists_jsrRow s
  obtain rfl := Host.Outcome.next.inj (h.symm.trans ht.exec_eq)
  exact ht

/-! ## A step whose fetch fails -/

/-- The fetch of the second operand byte at the last address fails, with two fetches charged (D3, D25). -/
theorem engineStep_of_pc_last_but_two {s : State} (hlen : 3 ≤ (decode (s.mem.read s.pc)).length)
    (hpc : s.pc = 0xFFFD) :
    engineStep s = .next
      { s with
        pc := 0xFFFF, icyc := 2, budget := budgetAfter s.budget 2, run := .halted,
        cause := .outOfBoundsAddress, info := 0x10000,
        bus := [.read 0xFFFD (s.mem.read s.pc), .read 0xFFFE (s.mem.read (s.pc + 1)),
          .read 0xFFFF (s.mem.read (s.pc + 2))] } := by
  rw [(StepRow.fetchFails 2 hlen (by simp [hpc])).engineStep_eq]
  simp [State.fetchFailed, State.fetched, fetches, hpc]

end Sys2Proof.Machine
end

section
/-! The statements on JSR (spec/42_jsr.md). -/

namespace Sys2Proof.Machine

/-- Settles O20: the handler's row where neither a fetch nor a push fails. -/
theorem jsrCompletes : Obligations.JsrCompletes := by
  unfold Obligations.JsrCompletes
  exact fun _ hpc hsp => (JsrRow.completes hpc hsp).exec_eq

/-- Settles O23: every row of the handler shows its frame; the cells it writes are those of its pushes. -/
theorem jsrFrame : Obligations.JsrFrame := by
  unfold Obligations.JsrFrame
  intro s s' h
  cases exec_jsrAbs_eq_next_iff.mp h with
  | lowFetchFails hpc | highFetchFails hpc =>
    exact ⟨rfl, rfl, rfl, rfl, rfl, fun _ _ _ => rfl, fun _ => ⟨rfl, rfl⟩,
      fun hle => absurd hle (by simp [hpc])⟩
  | firstPushFails hpc hsp =>
    exact ⟨rfl, rfl, rfl, rfl, rfl, fun _ hcell _ => Memory.read_write_of_ne _ _ hcell,
      fun hlt => absurd hpc (BitVec.not_le.mpr hlt), fun _ hle => absurd hle (by simp [hsp])⟩
  | secondPushFails hpc hsp =>
    exact ⟨rfl, rfl, rfl, rfl, rfl,
      fun _ hcell hbelow => (Memory.read_write_of_ne _ _ (hbelow (by simp [hsp]))).trans
        (Memory.read_write_of_ne _ _ hcell),
      fun hlt => absurd hpc (BitVec.not_le.mpr hlt), fun _ hle => absurd hle (by simp [hsp])⟩
  | completes hpc hsp =>
    exact ⟨rfl, rfl, rfl, rfl, rfl,
      fun _ hcell hbelow => (Memory.read_write_of_ne _ _ (hbelow (by bv_omega))).trans
        (Memory.read_write_of_ne _ _ hcell),
      fun hlt => absurd hpc (BitVec.not_le.mpr hlt), fun _ _ => ⟨rfl, rfl, rfl⟩⟩

/-- Settles O30: the three fetches that can fail, and the three rows of the step past them. -/
theorem jsrStepTable : Obligations.JsrStepTable := by
  unfold Obligations.JsrStepTable
  intro s hop
  have hdec := decode_eq_jsrAbs_iff.mpr hop
  rw [← hop]
  exact ⟨engineStep_of_pc_last, engineStep_of_pc_last_but_one (by simp [hdec]),
    engineStep_of_pc_last_but_two (by simp [hdec]),
    fun hpc hsp => (StepRow.jsrFull hdec (by bv_omega) hsp).engineStep_eq,
    fun hpc hsp => (StepRow.jsrHalf hdec (by bv_omega) hsp).engineStep_eq,
    fun hpc hsp => (StepRow.jsr hdec (by bv_omega) hsp).engineStep_eq⟩

/-- Settles O31: the two cells hold the bytes of PC + 2, which lies in the address space, and neighbour each other. -/
theorem jsrPushesLastByteAddress : Obligations.JsrPushesLastByteAddress := by
  unfold Obligations.JsrPushesLastByteAddress
  intro s hop hpc hsp
  have hdec := decode_eq_jsrAbs_iff.mpr hop
  have hfit : s.pc.toNat + 3 ≤ 0xFFFF := by bv_omega
  obtain ⟨s', hrow⟩ := exists_stepRow s
  have hstep := hrow.engineStep_eq
  obtain ⟨hhigh, hlow⟩ := engineStep_mem_read_of_jsr hstep hdec hfit hsp
  refine ⟨s', hstep, ?_, by bv_omega, ?_⟩
  · rw [hhigh, hlow, concatBytes_highByte_lowByte]
  · rw [stackAddress_toNat, stackAddress_toNat]
    bv_omega

end Sys2Proof.Machine
end

section
/-! The Unimplemented handler from its entry (spec/43_unimplemented.md R120), and a step of the machine whose step of
the engine has halted (D15). -/

namespace Sys2Proof.Machine

/-- R120: the handler takes its failure from the state it is entered in. -/
@[simp] theorem execUnimplemented_eq_next (b : DataByte) (s : State) :
    execUnimplemented b s = .next (takeFailure (.unimplementedOpcode b) s) := by
  rw [execUnimplemented, raise_eq, Micro.finish_raised]

/-- D15: the loop test does not replace the cause of a step of the engine that halted, whatever budget it left. -/
theorem step_of_engineStep_halted {s s' : State} (hrun : s.run = .running) (hb : s.budget ≠ 0)
    (h : engineStep s = .next s') (hhalt : s'.run = .halted) : step s = .next s' := by
  rw [step_running hrun hb, h, thenLoopTest, loopTest_of_halted hhalt]

end Sys2Proof.Machine
end

section
/-! The statements on unimplemented opcodes (spec/43_unimplemented.md). -/

namespace Sys2Proof.Machine

/-- Settles O21: the handler's failure has the cause and the datum of its byte. -/
theorem unimplementedRaises : Obligations.UnimplementedRaises := by
  unfold Obligations.UnimplementedRaises
  exact execUnimplemented_eq_next

/-- Settles O24: the handler's one answer is the state with its failure taken, which shows the frame. -/
theorem unimplementedFrame : Obligations.UnimplementedFrame := by
  unfold Obligations.UnimplementedFrame
  intro b s s' h
  rw [exec_unimplemented, execUnimplemented_eq_next] at h
  cases h
  exact ⟨rfl, rfl, rfl, rfl, rfl, rfl, rfl, rfl, rfl, rfl, fun _ => rfl⟩

/-- Settles O32: the row of the step past the opcode fetch, halted and so kept by the loop test, and the opcode fetch
that fails. -/
theorem unimplementedStep : Obligations.UnimplementedStep := by
  unfold Obligations.UnimplementedStep
  intro s hop
  have hdec := decode_of_not_known hop
  refine ⟨fun hpc => ?_, engineStep_of_pc_last⟩
  have hrow := (StepRow.unimplemented _ hdec (by bv_omega)).engineStep_eq
  exact ⟨hrow, fun hrun hb => step_of_engineStep_halted hrun hb hrow rfl⟩

end Sys2Proof.Machine
end

section
/-! Which failure a step of the engine records, read off its rows (spec/60_exceptions.md R132, R134, R137), and the one
failure of a push (D11). -/

namespace Sys2Proof

theorem decode_eq_unimplemented_iff {b c : DataByte} :
    decode b = .unimplemented c ↔ c ∉ knownOpcodes ∧ b = c := by
  rw [decode_eq_iff, Instr.wf_unimplemented_iff, encode]

end Sys2Proof

namespace Sys2Proof.Machine

theorem push8_eq_raised_iff {v : DataByte} {s s' : State} :
    push8 v s = .raised s' ↔
      s.sp = 0x00 ∧ s' = takeFailure .stackOverflow (write8 (stackAddress 0x00) v s) := by
  by_cases hsp : s.sp = 0x00
  · simp [push8_eq_raised hsp, hsp, eq_comm]
  · simp only [push8_eq_ok hsp, hsp, reduceCtorEq, false_and]

section
variable {s s' : State} (h : engineStep s = .next s')
include h

/-- SP only ever goes down, and never past 0 (R132). -/
theorem engineStep_sp_le : s'.sp ≤ s.sp := by
  cases engineStep_eq_next_iff.mp h with
  | fetchFails | ldaImm | ldaZp | ldaZpx | jsrFull | unimplemented => exact BitVec.le_refl s.sp
  | jsrHalf => exact BitVec.le_def.mpr (Nat.zero_le _)
  | jsr hdec hfit hsp => simp only; bv_omega

/-- Of the rows, those of a push without room record StackOverflow (D10, D11). -/
theorem engineStep_cause_eq_stackOverflow_iff (hcause : s.cause ≠ .stackOverflow) :
    s'.cause = .stackOverflow ↔
      decode (s.mem.read s.pc) = .jsrAbs ∧ s.pc ≤ 0xFFFC ∧ (s.sp = 0x00 ∨ s.sp = 0x01) := by
  constructor
  · intro hover
    cases engineStep_eq_next_iff.mp h with
    | jsrFull hdec hfit hsp => exact ⟨hdec, by bv_omega, .inl hsp⟩
    | jsrHalf hdec hfit hsp => exact ⟨hdec, by bv_omega, .inr hsp⟩
    | fetchFails | unimplemented => cases hover
    | ldaImm | ldaZp | ldaZpx | jsr => exact absurd hover hcause
  · rintro ⟨hdec, hpc, hsp | hsp⟩
    · rw [engineStep_eq_of_stepRow h (.jsrFull hdec (by bv_omega) hsp)]
    · rw [engineStep_eq_of_stepRow h (.jsrHalf hdec (by bv_omega) hsp)]

/-- Of the rows, that of a fetched byte outside the table alone records UnimplementedOpcode; its state is known. -/
theorem engineStep_unimplementedOpcode_inv (hcause : s.cause ≠ .unimplementedOpcode)
    (hun : s'.cause = .unimplementedOpcode) :
    s.pc ≠ 0xFFFF ∧ s.mem.read s.pc ∉ knownOpcodes ∧
      s' = takeFailure (.unimplementedOpcode (s.mem.read s.pc)) (s.fetched 1) := by
  cases engineStep_eq_next_iff.mp h with
  | unimplemented b hdec hfit =>
    obtain ⟨hknown, rfl⟩ := decode_eq_unimplemented_iff.mp hdec
    exact ⟨by bv_omega, hknown, rfl⟩
  | fetchFails | jsrFull | jsrHalf => cases hun
  | ldaImm | ldaZp | ldaZpx | jsr => exact absurd hun hcause

/-- R134: the step of a fetched byte outside the table. -/
theorem engineStep_cause_of_not_known (hpc : s.pc ≠ 0xFFFF) (hop : s.mem.read s.pc ∉ knownOpcodes) :
    s'.cause = .unimplementedOpcode := by
  rw [engineStep_eq_of_stepRow h (.unimplemented _ (decode_of_not_known hop) (by bv_omega))]

end

end Sys2Proof.Machine
end

section
/-! The statements on the failures a step records (spec/60_exceptions.md). -/

namespace Sys2Proof.Machine

/-- Settles O42: the one failure of a push, and the two rows of the step in which a push of JSR has it. -/
theorem stackOverflowOnlyByJsr : Obligations.StackOverflowOnlyByJsr := by
  unfold Obligations.StackOverflowOnlyByJsr
  refine ⟨fun v s => ?_, fun v s s' h => ?_, fun s s' hnone h => ⟨?_, engineStep_sp_le h⟩⟩
  · simp only [push8_eq_raised_iff, exists_and_left, exists_eq, and_true]
  · obtain ⟨hsp, rfl⟩ := push8_eq_raised_iff.mp h
    exact ⟨rfl, hsp, rfl⟩
  · rw [engineStep_cause_eq_stackOverflow_iff h (by simp [hnone]), decode_eq_jsrAbs_iff]

/-- Settles O43: the row of a fetched byte outside the table, the only one that records the cause, with its INFO, RUN
and ICYC. -/
theorem unimplementedOpcodeRecorded : Obligations.UnimplementedOpcodeRecorded := by
  unfold Obligations.UnimplementedOpcodeRecorded
  intro s s' hnone h
  have hinv := engineStep_unimplementedOpcode_inv h (by simp [hnone])
  refine ⟨⟨fun hun => ?_, fun ⟨hpc, hop⟩ => engineStep_cause_of_not_known h hpc hop⟩, fun hun => ?_⟩
  · obtain ⟨hpc, hop, -⟩ := hinv hun
    exact ⟨hpc, hop⟩
  · obtain ⟨-, -, rfl⟩ := hinv hun
    exact ⟨rfl, rfl, rfl⟩

end Sys2Proof.Machine
end

section
/-! The first port transaction of a step of the engine (spec/40_engine_fetch_dispatch.md R81), and the step of the
machine around a step of the engine (spec/60_exceptions.md R146). -/

namespace Sys2Proof.Machine

/-- Every row begins with the opcode fetch, whose read is made even where the fetch fails (R83, D3). -/
theorem engineStep_bus_head? {s s' : State} (h : engineStep s = .next s') :
    s'.bus.head? = some (.read s.pc (s.mem.read s.pc)) := by
  cases engineStep_eq_next_iff.mp h with
  | fetchFails | ldaImm | ldaZp | ldaZpx | jsrFull | jsrHalf | jsr | unimplemented => rfl

@[simp] theorem loopTest_bus (s : State) : (loopTest s).bus = s.bus :=
  loopTest_keeps (g := State.bus) (fun _ => rfl) s

theorem step_of_engineStep {s s' : State} (hrun : s.run = .running) (hb : s.budget ≠ 0)
    (h : engineStep s = .next s') : step s = .next (loopTest s') := by
  rw [step_running hrun hb, h, thenLoopTest]

end Sys2Proof.Machine
end

section
/-! The statement on the entry point of the first run (spec/70_reset_and_hazards.md R161). -/

namespace Sys2Proof.Machine

/-- Settles O49: a step's first transaction is the read at PC, which construction has set to RESET_ADDRESS; at the last
address that fetch fails. -/
theorem firstFetchAtResetAddress : Obligations.FirstFetchAtResetAddress := by
  unfold Obligations.FirstFetchAtResetAddress
  intro cfg m b hb
  rw [startRun_of_ne_zero _ hb]
  obtain ⟨s', hrow⟩ := exists_stepRow (beginRun b (State.ofConfig cfg m))
  have hstep := hrow.engineStep_eq
  refine ⟨loopTest s', step_of_engineStep rfl hb hstep, ?_, fun hlast => ?_⟩
  · rw [loopTest_bus]
    exact engineStep_bus_head? hstep
  · obtain rfl := Host.Outcome.next.inj (hstep.symm.trans (engineStep_of_pc_last hlast))
    rw [loopTest_of_halted rfl]
    exact ⟨rfl, rfl⟩

end Sys2Proof.Machine
end

section
/-! What one step leaves true of the whole state (spec/60_exceptions.md R130 to R146): the failures a step can record,
the completion of a step, and the invariant `State.Inv` piece by piece. -/

namespace Sys2Proof.Machine

/-! ## The failures a step records -/

/-- The failures that a step of the engine can raise: StackUnderflow is none of them (R131 to R134). -/
inductive Failure.RaisedByStep : Failure → Prop
  /-- A fetch at the top of the address space (R131). -/
  | outOfBoundsAddress : Failure.RaisedByStep (.outOfBoundsAddress 0x10000)
  /-- A push of JSR at SP 0 (R132). -/
  | stackOverflow : Failure.RaisedByStep .stackOverflow
  /-- An opcode byte outside the table (R134). -/
  | unimplementedOpcode (b : DataByte) (hdec : decode b = .unimplemented b) :
      Failure.RaisedByStep (.unimplementedOpcode b)

/-- A recorded failure of a step has its own datum in INFO (R28), and is neither of the two causes that no failure of a
step has. -/
theorem Failure.RaisedByStep.consistent {f : Failure} (hf : f.RaisedByStep) {s : State}
    (hcause : s.cause = f.cause) (hinfo : s.info = f.info) : s.InfoConsistent ∧ s.CauseConsistent := by
  cases hf with
  | outOfBoundsAddress | stackOverflow =>
    simp [State.InfoConsistent, State.CauseConsistent, hcause, hinfo, Failure.cause, Failure.info]
  | unimplementedOpcode b hdec =>
    simp [State.InfoConsistent, State.CauseConsistent, hcause, hinfo, Failure.cause, Failure.info, hdec]

theorem Failure.cause_ne_none (f : Failure) : f.cause ≠ .none := by
  cases f <;> nofun

/-! ## The memory port replayed -/

theorem replay_read (m : Memory) (addr : Address) (ops : List BusOp) :
    replay m (.read addr (m.read addr) :: ops) = replay m ops :=
  if_pos rfl

/-- The fetches of a step read what the memory holds, and leave it. -/
theorem replay_fetches_append (m : Memory) (addr : Address) (n : Nat) (ops : List BusOp) :
    replay m (fetches m addr n ++ ops) = replay m ops := by
  induction n generalizing addr with
  | zero => rfl
  | succ n ih => exact (replay_read m addr _).trans (ih (addr + 1))

theorem replay_fetches (m : Memory) (addr : Address) (n : Nat) :
    replay m (fetches m addr n) = some m := by
  simpa [replay] using replay_fetches_append m addr n []

/-- A memory that transactions lead to is in canonical form where the memory before them is. -/
theorem replay_wf {m m' : Memory} {ops : List BusOp} (hm : m.wf) (h : replay m ops = some m') : m'.wf := by
  induction ops generalizing m with
  | nil =>
    obtain rfl := Option.some.inj h
    exact hm
  | cons op rest ih =>
    cases op with
    | read addr v =>
      rw [replay] at h
      split at h
      · exact ih hm h
      · cases h
    | write addr v => exact ih (Memory.write_wf hm addr v) h

section
variable {s s' : State} (h : engineStep s = .next s')
include h

/-- A step that halts has recorded one of these failures (R136). -/
theorem engineStep_failure_of_halted (hrun : s.run = .running) (hhalt : s'.run = .halted) :
    ∃ f : Failure, f.RaisedByStep ∧ s'.cause = f.cause ∧ s'.info = f.info := by
  cases engineStep_eq_next_iff.mp h with
  | fetchFails => exact ⟨_, .outOfBoundsAddress, rfl, rfl⟩
  | jsrFull | jsrHalf => exact ⟨_, .stackOverflow, rfl, rfl⟩
  | unimplemented b hdec =>
    obtain ⟨hknown, -⟩ := decode_eq_unimplemented_iff.mp hdec
    exact ⟨_, .unimplementedOpcode b (decode_of_not_known hknown), rfl, rfl⟩
  | ldaImm | ldaZp | ldaZpx | jsr => cases hrun.symm.trans hhalt

/-- R25: no row charges more than the six cycles of JSR. -/
theorem engineStep_icyc_le : s'.icyc ≤ 6 := by
  suffices hcharged : ∃ n ≤ 6, s'.icyc = BitVec.ofNat 3 n by
    obtain ⟨n, hn, hicyc⟩ := hcharged
    rw [hicyc, BitVec.le_def, BitVec.toNat_ofNat]
    exact Nat.le_trans (Nat.mod_le n _) hn
  cases engineStep_eq_next_iff.mp h with
  | fetchFails k hk =>
    have hk3 := Instr.length_le (decode (s.mem.read s.pc))
    exact ⟨k, by omega, rfl⟩
  | unimplemented => exact ⟨1, by decide, rfl⟩
  | ldaImm => exact ⟨2, by decide, rfl⟩
  | ldaZp => exact ⟨3, by decide, rfl⟩
  | ldaZpx => exact ⟨4, by decide, rfl⟩
  | jsrFull => exact ⟨5, by decide, rfl⟩
  | jsrHalf | jsr => exact ⟨6, by decide, rfl⟩

/-- R50: the record of every row, replayed from the memory before, ends in the memory after. -/
theorem engineStep_replay : replay s.mem s'.bus = some s'.mem := by
  cases engineStep_eq_next_iff.mp h with
  | fetchFails k => exact replay_fetches s.mem s.pc (k + 1)
  | ldaImm => exact replay_fetches s.mem s.pc 2
  | unimplemented => exact replay_fetches s.mem s.pc 1
  | ldaZp | ldaZpx => exact (replay_fetches_append ..).trans (replay_read s.mem _ [])
  | jsrFull | jsrHalf | jsr => exact replay_fetches_append ..

theorem engineStep_mem_wf (hmem : s.mem.wf) : s'.mem.wf :=
  replay_wf hmem (engineStep_replay h)

end

/-! ## The loop test, the start of a run and construction -/

/-- A run without a recorded cause meets the invariant after its loop test, whatever budget it has left (R146). -/
theorem loopTest_inv {s : State} (hmem : s.mem.wf) (hicyc : s.icyc ≤ 6) (hrun : s.run = .running)
    (hcause : s.cause = .none) (hinfo : s.info = 0) : (loopTest s).Inv := by
  by_cases hb : s.budget = 0
  · rw [loopTest_of_exhausted hrun hb]
    exact ⟨hmem, hicyc, nofun, ⟨nofun, nofun, fun _ => hinfo⟩, fun _ => hb, nofun⟩
  · rw [loopTest_of_budget hb]
    exact ⟨hmem, hicyc, fun _ => ⟨hb, hcause, hinfo⟩, by simp [State.InfoConsistent, hcause, hinfo],
      by simp [State.CauseConsistent, hcause]⟩

theorem State.ofConfig_inv (cfg : Config) {m : Memory} (hm : m.wf) : (State.ofConfig cfg m).Inv :=
  ⟨hm, BitVec.le_def.mpr (Nat.zero_le _), nofun, ⟨nofun, nofun, fun _ => rfl⟩, nofun, nofun⟩

/-! ## The invariant over one step -/

/-- A step of the engine and its loop test: a completed step leaves the record of the run as it was, a raised one has
recorded its failure. -/
theorem engineStep_loopTest_inv {s t : State} (hinv : s.Inv) (hrun : s.run = .running)
    (h : engineStep s = .next t) : (loopTest t).Inv := by
  obtain ⟨hmem, -, hrunning, -, -⟩ := hinv
  obtain ⟨-, hcause, hinfo⟩ := hrunning hrun
  have hmem' := engineStep_mem_wf h hmem
  have hicyc' := engineStep_icyc_le h
  cases ht : t.run with
  | running =>
    obtain ⟨hcause', hinfo'⟩ := engineStep_cause_info h ht
    exact loopTest_inv hmem' hicyc' ht (hcause'.trans hcause) (hinfo'.trans hinfo)
  | halted =>
    obtain ⟨f, hf, hcause', hinfo'⟩ := engineStep_failure_of_halted h hrun ht
    rw [loopTest_of_halted ht]
    exact ⟨hmem', hicyc', by simp [State.RunConsistent, ht], hf.consistent hcause' hinfo'⟩

/-- The acts of the host on registers leave every part of the invariant alone, those on memory keep it canonical. -/
theorem hostAct_inv (m : HostMove) {s : State} (hinv : s.Inv) : (hostAct m s).Inv := by
  obtain ⟨hmem, hregs⟩ := hinv
  cases m with
  | construct cfg => exact State.ofConfig_inv cfg hmem
  | initMemory => exact ⟨Memory.nil_wf, hregs⟩
  | writeMem addr v => exact ⟨Memory.write_wf hmem addr v, hregs⟩
  | writePc | writeSp | writeA | writeX | writeY | writeFlag | writeStatus => exact ⟨hmem, hregs⟩
  | start b => exact loopTest_inv hmem hregs.1 rfl rfl rfl

theorem hostTurn_inv {s : State} (hinv : s.Inv) : (hostTurn s).Inv := by
  cases hm : s.hostMoves with
  | nil =>
    rw [hostTurn_nil hm]
    exact hinv
  | cons m rest =>
    rw [hostTurn_cons hm]
    exact hostAct_inv m hinv

end Sys2Proof.Machine
end

section
/-! The statements on the invariant and on the record of the memory port (spec/10_state.md section 3,
spec/20_memory.md section 5). -/

namespace Sys2Proof.Machine

/-- Settles O55: the host's turn keeps the invariant; while Running it gives a budget to spend and no cause recorded,
from which a step of the engine and its loop test keep it. -/
theorem stepKeepsInvariant : Obligations.StepKeepsInvariant := by
  unfold Obligations.StepKeepsInvariant
  intro s s' hinv h
  cases hrun : s.run with
  | halted =>
    rw [step_halted hrun] at h
    obtain rfl := Host.Outcome.next.inj h
    exact hostTurn_inv hinv
  | running =>
    have ⟨_, _, hrunning, _, _⟩ := hinv
    obtain ⟨hb, -, -⟩ := hrunning hrun
    obtain ⟨t, ht, rfl⟩ := step_running_inv hrun hb h
    exact engineStep_loopTest_inv hinv hrun ht

/-- Settles O56: construction records no run, no cause and no datum, beside the memory it is given. -/
theorem constructionMeetsInvariant : Obligations.ConstructionMeetsInvariant := by
  unfold Obligations.ConstructionMeetsInvariant
  exact ⟨fun cfg _ hm => State.ofConfig_inv cfg hm, State.ofConfig_inv Config.suggested Memory.nil_wf⟩

/-- Settles O8: each row's record of the port, replayed. -/
theorem memoryPortInProgramOrder : Obligations.MemoryPortInProgramOrder := by
  unfold Obligations.MemoryPortInProgramOrder
  exact fun _ _ h => engineStep_replay h

end Sys2Proof.Machine
end

section
/-! What the canonical form of a memory says of its entries (spec/20_memory.md R40): they are exactly its cells that
hold another byte than an unlisted address reads as. -/

namespace Sys2Proof.Machine

/-- In rising order an address has one entry. -/
theorem Memory.eq_of_addr_eq {m : Memory} (hm : m.wf) {c d : Host.Cell} (hc : c ∈ m) (hd : d ∈ m)
    (haddr : c.1 = d.1) : c = d := by
  have hrise := List.pairwise_iff_getElem.mp hm.1
  obtain ⟨i, hi, rfl⟩ := List.getElem_of_mem hc
  obtain ⟨j, hj, rfl⟩ := List.getElem_of_mem hd
  obtain hlt | rfl | hgt := Nat.lt_trichotomy i j
  · exact absurd haddr (Nat.ne_of_lt (hrise i j hi hj hlt))
  · rfl
  · exact absurd haddr.symm (Nat.ne_of_lt (hrise j i hj hi hgt))

/-- In rising order no entry stands twice. -/
theorem Memory.nodup_of_wf {m : Memory} (hm : m.wf) : m.Nodup :=
  hm.1.imp fun {c d} (hlt : c.1 < d.1) (heq : c = d) => Nat.ne_of_lt hlt (congrArg Prod.fst heq)

theorem Memory.read_of_mem {m : Memory} (hm : m.wf) {c : Host.Cell} (hc : c ∈ m) {addr : Address}
    (haddr : addr.toNat = c.1) : m.read addr = c.2 := by
  rw [Memory.read]
  cases hfind : m.find? (fun d => d.1 == addr.toNat) with
  | none => simpa [haddr] using List.find?_eq_none.mp hfind c hc
  | some d =>
    have hd : d.1 = addr.toNat := by simpa using List.find?_some hfind
    rw [Memory.eq_of_addr_eq hm (List.mem_of_find?_eq_some hfind) hc (hd.trans haddr)]

theorem Memory.mem_of_read {m : Memory} {addr : Address} (hread : m.read addr ≠ unlistedByte) :
    (addr.toNat, m.read addr) ∈ m := by
  rw [Memory.read] at hread ⊢
  cases hfind : m.find? (fun d => d.1 == addr.toNat) with
  | none => simp [hfind] at hread
  | some d =>
    have hd : d.1 = addr.toNat := by simpa using List.find?_some hfind
    rw [← hd]
    exact List.mem_of_find?_eq_some hfind

theorem Memory.mem_of_read_eq {m m' : Memory} (hm : m.wf) (hread : ∀ addr : Address, m.read addr = m'.read addr)
    {c : Host.Cell} (hc : c ∈ m) : c ∈ m' := by
  obtain ⟨hlt, hv⟩ := hm.2 c hc
  have haddr : (BitVec.ofNatLT c.1 hlt : Address).toNat = c.1 := BitVec.toNat_ofNatLT c.1 hlt
  have hcell : m'.read (BitVec.ofNatLT c.1 hlt) = c.2 := (hread _).symm.trans (Memory.read_of_mem hm hc haddr)
  have hmem := Memory.mem_of_read (m := m') (hcell ▸ hv)
  rwa [haddr, hcell] at hmem

/-- The entries stand in the one order of their addresses, so the cells determine the list. -/
theorem Memory.eq_of_read_eq {m m' : Memory} (hm : m.wf) (hm' : m'.wf)
    (hread : ∀ addr : Address, m.read addr = m'.read addr) : m = m' := by
  have hentries (c : Host.Cell) : c ∈ m ↔ c ∈ m' :=
    ⟨Memory.mem_of_read_eq hm hread, Memory.mem_of_read_eq hm' fun addr => (hread addr).symm⟩
  have hperm : m.Perm m' :=
    (List.perm_ext_iff_of_nodup (Memory.nodup_of_wf hm) (Memory.nodup_of_wf hm')).mpr hentries
  exact hperm.eq_of_pairwise (fun _ _ _ _ hlt hgt => absurd hgt (Nat.lt_asymm hlt)) hm.1 hm'.1

end Sys2Proof.Machine
end

section
/-! The statements on memory as its cells (spec/20_memory.md section 1). -/

namespace Sys2Proof.Machine

/-- Settles O7, by `Memory.eq_of_read_eq`. -/
theorem canonicalMemoryIsItsCells : Obligations.CanonicalMemoryIsItsCells := by
  unfold Obligations.CanonicalMemoryIsItsCells
  exact fun _ _ hm hm' hread => Memory.eq_of_read_eq hm hm' hread

/-- Settles O6: a read logs itself and no more, and what the cells read as after a write. -/
theorem memoryPrimitives : Obligations.MemoryPrimitives := by
  unfold Obligations.MemoryPrimitives
  exact ⟨fun _ _ => ⟨rfl, rfl⟩, Memory.read_write_same, fun m _ _ v hne => Memory.read_write_of_ne m v hne⟩

end Sys2Proof.Machine
end

section
/-! How a step and a run end (spec/60_exceptions.md R130 to R146): which steps complete, which record
OutOfBoundsAddress, which acts of the host start a run, and the run loop as the machine's steps. -/

namespace Sys2Proof.Machine

/-! ## How a step of the engine ends -/

section
variable {s s' : State} (h : engineStep s = .next s')
include h

/-- A step completes where its bytes can be fetched, a JSR has room for both pushes, and its opcode is in the table. -/
theorem engineStep_running_iff (hrun : s.run = .running) :
    s'.run = .running ↔
      s.pc.toNat + (decode (s.mem.read s.pc)).length ≤ 0xFFFF ∧
      (decode (s.mem.read s.pc) = .jsrAbs → 2 ≤ s.sp) ∧
      ∃ c, (decode (s.mem.read s.pc)).baseCycles? = some c := by
  cases engineStep_eq_next_iff.mp h with
  | fetchFails k hk hpc => exact iff_of_false nofun fun ⟨hfit, _⟩ => by omega
  | ldaImm hdec hfit | ldaZp hdec hfit | ldaZpx hdec hfit =>
    exact iff_of_true hrun ⟨by simpa [hdec] using hfit, by simp [hdec], by simp [hdec]⟩
  | jsr hdec hfit hsp =>
    exact iff_of_true hrun ⟨by simpa [hdec] using hfit, fun _ => hsp, by simp [hdec]⟩
  | jsrFull hdec hfit hsp | jsrHalf hdec hfit hsp =>
    exact iff_of_false nofun fun ⟨_, hroom, _⟩ => by simpa [hsp] using hroom hdec
  | unimplemented b hdec => exact iff_of_false nofun fun ⟨_, _, hcycles⟩ => by simp [hdec] at hcycles

/-- D3: of the rows, those of a failing fetch record OutOfBoundsAddress. -/
theorem engineStep_cause_eq_outOfBounds_iff (hcause : s.cause ≠ .outOfBoundsAddress) :
    s'.cause = .outOfBoundsAddress ↔ 0xFFFF < s.pc.toNat + (decode (s.mem.read s.pc)).length := by
  cases engineStep_eq_next_iff.mp h with
  | fetchFails k hk hpc => exact iff_of_true rfl (by omega)
  | ldaImm hdec hfit | ldaZp hdec hfit | ldaZpx hdec hfit | jsr hdec hfit =>
    exact iff_of_false hcause (by simpa [hdec] using hfit)
  | jsrFull hdec hfit | jsrHalf hdec hfit | unimplemented b hdec hfit =>
    exact iff_of_false nofun (by simpa [hdec] using hfit)

/-- D3, D25: a failing fetch leaves the address past the last in INFO, and PC at the last. -/
theorem engineStep_outOfBounds_inv (hcause : s.cause ≠ .outOfBoundsAddress)
    (hout : s'.cause = .outOfBoundsAddress) : s'.info = 0x10000 ∧ s'.pc = 0xFFFF := by
  cases engineStep_eq_next_iff.mp h with
  | fetchFails k hk hpc => exact ⟨rfl, show s.pc + BitVec.ofNat 16 k = 0xFFFF by bv_omega⟩
  | jsrFull | jsrHalf | unimplemented => cases hout
  | ldaImm | ldaZp | ldaZpx | jsr => exact absurd hout hcause

/-- D8: a step spends the budget where its cycles reach it. -/
theorem engineStep_budget_eq_zero_iff : s'.budget = 0 ↔ s.budget.toNat ≤ s'.icyc.toNat := by
  rw [engineStep_budget h, ← BitVec.toNat_inj, budgetAfter_toNat]
  exact Nat.sub_eq_zero_iff_le

end

/-! ## How a step of the machine ends -/

theorem exists_step_eq_next (s : State) : ∃ s', step s = .next s' := by
  cases hrun : s.run with
  | halted => exact ⟨_, step_halted hrun⟩
  | running =>
    by_cases hb : s.budget = 0
    · exact ⟨_, step_exhausted hrun hb⟩
    · obtain ⟨t, hrow⟩ := exists_stepRow s
      exact ⟨_, step_of_engineStep hrun hb hrow.engineStep_eq⟩

/-! ## The acts of the host -/

/-- Of the acts of the host, the start of a run with a budget alone leaves Halted (R138, R145). -/
theorem hostAct_run {m : HostMove} {s : State} (hrun : s.run = .halted)
    (hact : (hostAct m s).run = .running) : ∃ b, b ≠ 0 ∧ m = .start b := by
  cases m with
  | start b =>
    refine ⟨b, ?_, rfl⟩
    rintro rfl
    rw [hostAct, startRun_zero] at hact
    cases hact
  | construct => cases hact
  | initMemory | writeMem | writePc | writeSp | writeA | writeX | writeY | writeFlag | writeStatus =>
    cases hrun.symm.trans hact

/-! ## Runs -/

theorem core_run_add {j : Nat} {s t : State} (h : core.run j s = .next t) (k : Nat) :
    core.run (j + k) s = core.run k t := by
  induction j generalizing s with
  | zero =>
    obtain rfl := Host.Outcome.next.inj ((core_run_zero s).symm.trans h)
    rw [Nat.zero_add]
  | succ j ih =>
    obtain ⟨s1, hstep⟩ := exists_step_eq_next s
    rw [core_run_succ hstep] at h
    rw [Nat.succ_add, core_run_succ hstep, ih h]

/-- A run in progress comes to the end of the spec's loop in at most as many steps as its budget has cycles (R146). -/
theorem exists_core_run_eq_executeLoop {s : State} {n : Nat} (hrun : s.run = .running) (hb : s.budget ≠ 0)
    (hn : s.budget.toNat ≤ n) :
    ∃ k s', k ≤ s.budget.toNat ∧ core.run k s = .next s' ∧ executeLoop n s = .next s' ∧
      s'.run = .halted ∧ s'.hostMoves = s.hostMoves := by
  induction n generalizing s with
  | zero => exact absurd hn (by bv_omega)
  | succ n ih =>
    obtain ⟨t, hrow⟩ := exists_stepRow s
    have hengine := hrow.engineStep_eq
    have hmoves := engineStep_hostMoves hengine
    have hone := (core_run_succ (step_of_engineStep hrun hb hengine) 0).trans (core_run_zero (loopTest t))
    have hpos : 1 ≤ s.budget.toNat := by bv_omega
    rw [executeLoop_succ hb hengine]
    cases ht : t.run with
    | halted =>
      rw [loopTest_of_halted ht] at hone
      exact ⟨1, t, hpos, hone, rfl, ht, hmoves⟩
    | running =>
      simp only [reduceCtorEq, if_false]
      by_cases htb : t.budget = 0
      · rw [loopTest_of_exhausted ht htb] at hone
        exact ⟨1, exhausted t, hpos, hone, executeLoop_of_exhausted htb n, rfl, hmoves⟩
      · have hlt := engineStep_budget_lt hengine hb ht
        obtain ⟨k, s', hk, hmachine, hloop, hhalt, hmoves'⟩ := ih ht htb (by omega)
        rw [loopTest_of_budget htb] at hone
        refine ⟨1 + k, s', by omega, ?_, hloop, hhalt, hmoves'.trans hmoves⟩
        rw [core_run_add hone, hmachine]

/-- The host's start of a run and the steps after it come to the end of `execute`. -/
theorem exists_core_run_eq_execute (b : Budget) {s : State} :
    ∃ k s', k ≤ b.toNat ∧ core.run k (startRun b s) = .next s' ∧ execute b s = .next s' ∧
      s'.run = .halted ∧ s'.hostMoves = s.hostMoves := by
  by_cases hb : b = 0
  · subst hb
    exact ⟨0, exhausted (beginRun 0 s), Nat.zero_le _, by rw [startRun_zero, core_run_zero], rfl, rfl, rfl⟩
  · rw [startRun_of_ne_zero s hb]
    exact exists_core_run_eq_executeLoop (s := beginRun b s) rfl hb (Nat.le_refl _)

end Sys2Proof.Machine
end

section
/-! The statements on how a step and a run end (spec/60_exceptions.md). -/

namespace Sys2Proof.Machine

/-- Settles O54: the host's turn, the end of a run and every row of the engine's step are next states. -/
theorem everyStepHasANextState : Obligations.EveryStepHasANextState := by
  unfold Obligations.EveryStepHasANextState
  exact exists_step_eq_next

/-- Settles O44: a step that raised is kept by the loop test and has a failure's cause; one that completed has none, and
the loop test records BudgetExhausted where its cycles reach the budget. -/
theorem haltCauseOfAStep : Obligations.HaltCauseOfAStep := by
  unfold Obligations.HaltCauseOfAStep
  intro s s' hrun hb hnone h
  obtain ⟨t, ht, rfl⟩ := step_running_inv hrun hb h
  have hne : s.cause ≠ .outOfBoundsAddress := by simp [hnone]
  have hcompletes := engineStep_running_iff ht hrun
  simp only [decode_eq_jsrAbs_iff] at hcompletes
  rw [← engineStep_cause_eq_outOfBounds_iff ht hne]
  cases hrun' : t.run with
  | halted =>
    obtain ⟨f, hf, hcause, -⟩ := engineStep_failure_of_halted ht hrun hrun'
    rw [loopTest_of_halted hrun']
    refine ⟨Iff.rfl, engineStep_outOfBounds_inv ht hne, ?_, ?_, ?_⟩
    · refine iff_of_false (engineStep_cause_ne_budgetExhausted ht hrun hrun') ?_
      rintro ⟨hfit, hroom, c, hc, -⟩
      cases hrun'.symm.trans (hcompletes.mpr ⟨hfit, hroom, c, hc⟩)
    · rw [hcause]
      cases hf <;> nofun
    · exact iff_of_true hrun' (hcause ▸ f.cause_ne_none)
  | running =>
    obtain ⟨hfit, hroom, -⟩ := hcompletes.mp hrun'
    obtain ⟨hcause, -⟩ := engineStep_cause_info ht hrun'
    have hnone' : t.cause = .none := hcause.trans hnone
    have hcycles := engineStep_baseCycles ht hrun'
    have hspends := engineStep_budget_eq_zero_iff ht
    by_cases hspent : t.budget = 0
    · rw [loopTest_of_exhausted hrun' hspent]
      exact ⟨iff_of_false nofun (by simp [hnone']), nofun,
        iff_of_true rfl ⟨hfit, hroom, _, hcycles, hspends.mp hspent⟩, nofun, iff_of_true rfl nofun⟩
    · rw [loopTest_of_budget hspent]
      refine ⟨Iff.rfl, by simp [hnone'], iff_of_false (by simp [hnone']) ?_, by simp [hnone'],
        by simp [hrun', hnone']⟩
      rintro ⟨-, -, c, hc, hle⟩
      obtain rfl := Option.some.inj (hcycles.symm.trans hc)
      exact hspent (hspends.mpr hle)

/-- Settles O45: the host's acts and the loop test, row by row; the run ends by `exists_core_run_eq_executeLoop`. -/
theorem runStateMachine : Obligations.RunStateMachine := by
  unfold Obligations.RunStateMachine
  refine ⟨fun s cfg rest hrun hmoves => ?_, fun s b rest hrun hmoves hb => ?_, fun s rest hrun hmoves => ?_,
    fun s t hrun hb ht => ⟨fun hrun' hb' => ?_, fun hrun' hb' => ?_, fun hhalt => ?_⟩, fun s hrun hb => ?_⟩
  · rw [step_halted hrun, hostTurn_cons hmoves]
    rfl
  · rw [step_halted hrun, hostTurn_cons hmoves, hostAct, startRun_of_ne_zero _ hb]
    rfl
  · rw [step_halted hrun, hostTurn_cons hmoves, hostAct, startRun_zero, exhausted, beginRun, hrun]
  · rw [step_of_engineStep hrun hb ht, loopTest_of_budget hb']
  · rw [step_of_engineStep hrun hb ht, loopTest_of_exhausted hrun' hb']
    rfl
  · obtain ⟨f, -, hrecord⟩ := engineStep_failure_of_halted ht hrun hhalt
    exact ⟨step_of_engineStep_halted hrun hb ht hhalt, f, hrecord⟩
  · obtain ⟨k, s', hk, hmachine, -, hhalt, -⟩ := exists_core_run_eq_executeLoop hrun hb (Nat.le_refl _)
    exact ⟨k, s', hk, hmachine, hhalt⟩

/-- Settles O46: of the host's acts the start of a run with a budget alone leaves Halted. -/
theorem haltedUntilStarted : Obligations.HaltedUntilStarted := by
  unfold Obligations.HaltedUntilStarted
  refine ⟨fun s hrun hmoves => ?_, fun s s' hrun h hrun' => ?_, fun _ _ => rfl, fun _ => rfl, fun _ _ => rfl⟩
  · rw [step_halted hrun, hostTurn_nil hmoves]
  · rw [step_halted hrun] at h
    obtain rfl := Host.Outcome.next.inj h
    cases hmoves : s.hostMoves with
    | nil =>
      rw [hostTurn_nil hmoves, hrun] at hrun'
      cases hrun'
    | cons m rest =>
      rw [hostTurn_cons hmoves] at hrun'
      obtain ⟨b, hb, rfl⟩ := hostAct_run (s := { s with hostMoves := rest }) hrun hrun'
      exact ⟨b, rest, hb, rfl⟩

/-- Settles O58: one step for the start, the steps of the run, and from its end on nothing changes. -/
theorem executeIsIteratedStep : Obligations.ExecuteIsIteratedStep := by
  unfold Obligations.ExecuteIsIteratedStep
  intro s b k hrun hmoves hk
  obtain ⟨j, s', hj, hmachine, hloop, hhalt, hmoves'⟩ :=
    exists_core_run_eq_execute b (s := { s with hostMoves := [] })
  have hstart : step s = .next (startRun b { s with hostMoves := [] }) := by
    rw [step_halted hrun, hostTurn_cons hmoves, hostAct]
  have hend : core.run (j + 1) s = .next s' := (core_run_succ hstart j).trans hmachine
  obtain ⟨i, rfl⟩ : ∃ i, k = j + 1 + i := Nat.exists_eq_add_of_le (by omega)
  exact ⟨s', hloop, (core_run_add hend i).trans (core_run_of_halted hhalt hmoves' i), hhalt⟩

end Sys2Proof.Machine
end

section
/-! The instruction word stored for the next step (notes/assumptions/7.md): what `disassemble` reads from its bytes, and
that the state is ready to run it. -/

namespace Sys2Proof

/-- Two bytes are operand enough for every instruction (R60). -/
theorem exists_takeOperand_pair (i : Instr) (b c : DataByte) :
    ∃ o rest, takeOperand i [b, c] = .accepted i o rest := by
  cases i with
  | ldaImm | ldaZp | ldaZpx | jsrAbs | unimplemented => exact ⟨_, _, rfl⟩

/-- The first byte of an instruction word, its opcode. -/
def wordOpcode (nbits w : Nat) : DataByte := BitVec.ofNat 8 (w % 2 ^ nbits)

theorem wordBytes_zero (nbits w : Nat) : (wordBytes nbits w)[0]? = some (wordOpcode nbits w) := rfl

theorem decodeTableWord_eq (nbits w : Nat) :
    decodeTableWord nbits w = some (decode (wordOpcode nbits w)) := by
  obtain ⟨o, rest, htake⟩ := exists_takeOperand_pair (decode (wordOpcode nbits w))
    (BitVec.ofNat 8 (w % 2 ^ nbits / 2 ^ 8)) (BitVec.ofNat 8 (w % 2 ^ nbits / 2 ^ 16))
  have hread := (disassemble_cons (wordOpcode nbits w) _).trans htake
  rw [decodeTableWord, wordBytes, ← wordOpcode, hread]

end Sys2Proof

namespace Sys2Proof.Machine

/-! ## The ready state -/

/-- What the start of a run leaves, `makeReady` leaves. -/
theorem makeReady_keeps {α : Type} {g : State → α} (hg : ∀ b t, g (beginRun b t) = g t) (s : State) :
    g (makeReady s) = g s := by
  rw [makeReady]
  split
  · rfl
  · exact hg _ s

theorem makeReady_running (s : State) : (makeReady s).run = .running ∧ (makeReady s).budget ≠ 0 := by
  rw [makeReady]
  split
  case isTrue hready => exact hready
  case isFalse =>
    refine ⟨rfl, ?_⟩
    rw [beginRun_budget]
    split
    case isTrue => decide
    case isFalse hb => exact hb

@[simp] theorem State.withFetchWord_pc (s : State) (nbits w : Nat) : (s.withFetchWord nbits w).pc = s.pc :=
  makeReady_keeps (g := State.pc) (fun _ _ => rfl) _

@[simp] theorem State.withFetchWord_mem (s : State) (nbits w : Nat) :
    (s.withFetchWord nbits w).mem = s.mem.writeBytes s.pc.toNat (wordBytes nbits w) :=
  makeReady_keeps (g := State.mem) (fun _ _ => rfl) _

/-- The cell at PC holds the opcode of the word. -/
theorem State.withFetchWord_read_pc (s : State) (nbits w : Nat) :
    (s.withFetchWord nbits w).mem.read s.pc = wordOpcode nbits w := by
  have hcell := Memory.read_writeBytes_inside s.mem (k := s.pc.toNat) (i := 0)
    (bytes := wordBytes nbits w) (by simp [wordBytes]) s.pc.isLt
  rw [Nat.add_zero, BitVec.ofNat_toNat, BitVec.setWidth_eq, wordBytes_zero] at hcell
  rw [State.withFetchWord_mem]
  exact Option.some.inj hcell

end Sys2Proof.Machine
end

section
/-! The statements on encodings written out and on the stored instruction word (spec/95_test_vectors.md,
notes/assumptions/7.md and 15.md). -/

namespace Sys2Proof.Machine

/-- Settles O53: the cell at PC reads as the word's opcode, whose row the decoder finds, and a run is in progress. -/
theorem fetchWordIsRunNext : Obligations.FetchWordIsRunNext := by
  unfold Obligations.FetchWordIsRunNext
  intro s nbits w hpc _
  obtain ⟨hrun, hb⟩ := makeReady_running (s.setMem (s.mem.writeBytes s.pc.toNat (wordBytes nbits w)))
  have htop : (s.withFetchWord nbits w).pc ≠ 0xFFFF := by
    rw [State.withFetchWord_pc]
    bv_omega
  have hfetch := fetchOpcode_eq_ok htop
  rw [State.withFetchWord_pc, State.withFetchWord_read_pc] at hfetch
  refine ⟨_, (s.withFetchWord nbits w).fetched 1, decodeTableWord_eq nbits w, ?_, ?_⟩
  · rw [encode_decode]
    exact hfetch
  · rw [← engineStep_of_fetchOpcode_ok hfetch]
    exact step_running hrun hb

/-- Settles O4: each list evaluated. -/
theorem sampleWordsDecode : Obligations.SampleWordsDecode := by
  unfold Obligations.SampleWordsDecode
  exact ⟨rfl, rfl, rfl, rfl, rfl, rfl, rfl⟩

end Sys2Proof.Machine
end

section
/-! The bits of the packed status byte (spec/10_state.md R22) and the stack cell as a sum (R12). -/

namespace Sys2Proof.Machine

/-! ## The packed status byte -/

/-- The flags at their bit positions, bit 5 clear. -/
theorem packStatus_getLsbD (p : Status) :
    (packStatus p).getLsbD 0 = p.c ∧ (packStatus p).getLsbD 1 = p.z ∧ (packStatus p).getLsbD 2 = p.i ∧
    (packStatus p).getLsbD 3 = p.d ∧ (packStatus p).getLsbD 4 = p.b ∧ (packStatus p).getLsbD 5 = false ∧
    (packStatus p).getLsbD 6 = p.v ∧ (packStatus p).getLsbD 7 = p.n := by
  obtain ⟨c, z, i, d, b, v, n⟩ := p
  revert c z i d b v n
  decide

theorem unpackStatus_packStatus (p : Status) : unpackStatus (packStatus p) = p := by
  obtain ⟨hc, hz, hi, hd, hb, -, hv, hn⟩ := packStatus_getLsbD p
  rw [unpackStatus, hc, hz, hi, hd, hb, hv, hn]

theorem packStatus_unpackStatus (v : DataByte) : packStatus (unpackStatus v) = v &&& 0xDF := by
  obtain ⟨hc, hz, hi, hd, hb, h5, hv, hn⟩ := packStatus_getLsbD (unpackStatus v)
  apply BitVec.eq_of_getLsbD_eq
  intro k hk
  have hbit : k = 0 ∨ k = 1 ∨ k = 2 ∨ k = 3 ∨ k = 4 ∨ k = 5 ∨ k = 6 ∨ k = 7 := by omega
  obtain rfl | rfl | rfl | rfl | rfl | rfl | rfl | rfl := hbit
  all_goals simp only [hc, hz, hi, hd, hb, h5, hv, hn]
  all_goals simp [unpackStatus]

/-! ## The stack cell -/

theorem stackAddress_eq_add (sp : DataByte) : stackAddress sp = 0x0100 + sp.setWidth 16 := by
  have hsp := sp.isLt
  apply BitVec.eq_of_toNat_eq
  simp [stackAddress_toNat]
  omega

end Sys2Proof.Machine
end

section
/-! The statements on the micro-operations (spec/40_engine_fetch_dispatch.md), the packed status byte, the failure entry
and construction. -/

namespace Sys2Proof.Machine

/-- Settles O10: the charge is `budgetAfter`, a difference of natural numbers. -/
theorem chargeSaturatesBudget : Obligations.ChargeSaturatesBudget := by
  unfold Obligations.ChargeSaturatesBudget
  refine fun n s => ⟨charge_eq n s, ?_⟩
  rw [charge_budget, budgetAfter_toNat]

/-- Settles O11: the fetch that completes and the one that raises. -/
theorem fetchByteAdvancesOrFails : Obligations.FetchByteAdvancesOrFails := by
  unfold Obligations.FetchByteAdvancesOrFails
  refine fun s => ⟨fun hpc => ⟨fetch8_ok_update hpc, by bv_omega⟩, fun hpc => ?_⟩
  rw [fetch8_eq_raised hpc, ← hpc]
  rfl

/-- Settles O12: the fetch of an address that completes, and the two fetches that can raise. -/
theorem fetchAddressLittleEndian : Obligations.FetchAddressLittleEndian := by
  unfold Obligations.FetchAddressLittleEndian
  refine fun s => ⟨fetchAddr_eq_ok, fun hpc => ?_, fun hpc => ?_⟩
  · rw [fetchAddr_eq_raised_of_high hpc, hpc]
    rfl
  · rw [fetchAddr_eq_raised_of_low hpc, ← hpc]
    rfl

/-- Settles O14: the push that completes and the one that raises, at the stack cell as a sum. -/
theorem pushWritesThenDecrements : Obligations.PushWritesThenDecrements := by
  unfold Obligations.PushWritesThenDecrements
  intro v s
  rw [← stackAddress_eq_add]
  refine ⟨push8_ok_update, fun hsp => ?_⟩
  rw [push8_raised_update hsp, hsp]
  rfl

/-- Settles O16: the bits of the packed byte, from which both round trips follow. -/
theorem packedStatusView : Obligations.PackedStatusView := by
  unfold Obligations.PackedStatusView
  refine ⟨fun p => ?_, packStatus_unpackStatus⟩
  obtain ⟨hc, hz, hi, hd, hb, h5, hv, hn⟩ := packStatus_getLsbD p
  exact ⟨hc, hz, hi, hd, hb, h5, hv, hn, unpackStatus_packStatus p⟩

/-- Settles O41: the entry writes RUN, CAUSE and INFO; the numbers failure by failure. -/
theorem failureEntryAndCodes : Obligations.FailureEntryAndCodes := by
  unfold Obligations.FailureEntryAndCodes
  refine ⟨fun f s => ⟨f.cause, f.info, rfl, ?_, ?_, ?_, ?_, ?_⟩, rfl, rfl⟩
  · cases f <;> simp [Failure.cause]
  · rintro addr rfl
    exact ⟨rfl, rfl⟩
  · rintro rfl
    exact ⟨rfl, rfl⟩
  · rintro rfl
    exact ⟨rfl, rfl⟩
  · rintro b rfl
    exact ⟨rfl, BitVec.toNat_setWidth_of_le (by decide)⟩

/-- Settles O47: construction reads nothing of the state but its memory and the acts pending. -/
theorem constructionResetsRegisters : Obligations.ConstructionResetsRegisters := by
  unfold Obligations.ConstructionResetsRegisters
  exact fun _ _ => ⟨rfl, rfl, rfl, rfl, rfl, rfl, rfl, rfl, rfl, rfl, rfl, rfl, rfl⟩

/-- Settles O48: the values of the suggested configuration, beside a memory with nothing listed. -/
theorem resetStateValues : Obligations.ResetStateValues := by
  unfold Obligations.ResetStateValues
  exact ⟨rfl, rfl, rfl, rfl, rfl, rfl, rfl, Memory.read_nil⟩

end Sys2Proof.Machine
end
